-- ==== Sys2Proof/Word.lean ====
section
/-! DEFINITION. The word and byte types (00_scope.md R6, R9) and the group of four words A, B, C, D that the
chaining words and the working registers share (10_state.md R14, R15). -/

namespace Sys2Proof

/-- A word: "an unsigned 32-bit integer; the natural unit of arithmetic" (R6, R9). -/
abbrev Word := BitVec 32

/-- A byte: an unsigned integer in [0, 256) (R9). -/
abbrev Byte := BitVec 8

/-- Four words named A, B, C, D: the chaining words `CV` (R14) or the working registers (R15). -/
structure Chain where
  A : Word
  B : Word
  C : Word
  D : Word
deriving DecidableEq, Repr, Inhabited

/-- A block: "a 64-byte (512-bit) unit of input consumed by one compression step" (R6). -/
abbrev Block := Vector Byte 64

/-- The sixteen work words `X[0..15]` (10_state.md R21). -/
abbrev WorkWords := Vector Word 16

end Sys2Proof
end

