-- ==== Sys2Proof/Config.lean ====
section
/-! DEFINITION. The build-time constants (10_state.md R24, 00_scope.md R6, R7) and the free values, which the spec
leaves unspecified: opaque constants, with no value any proof can see. -/

namespace Sys2Proof

/-- `MD4_IV`, the four initial chaining words (R7). UNVERIFIED (log 10): the spec itself takes the values from
general knowledge (D8). -/
def Config.md4IV : Chain := ⟨0x67452301, 0xEFCDAB89, 0x98BADCFE, 0x10325476⟩

/-- The constant inside `GG` (R6, R77). -/
def Config.kRound2 : Word := 0x5A827999

/-- The constant inside `HH` (R6, R78). -/
def Config.kRound3 : Word := 0x6ED9EBA1

/-- The first padding byte (R6, R176). -/
def Config.padFirstByte : Byte := 0x80

/-- The content of the working registers A to D where no rule fixes it: after reset and between commands (R15,
R155). A free value, one for each epoch. DESIGN CHOICE (log 5). -/
opaque Config.transientChain : Nat → Chain

/-- The content of the work words X where no rule fixes it (R21, R155). A free value, one for each epoch.
DESIGN CHOICE (log 5). -/
opaque Config.transientWords : Nat → WorkWords

/-- What a read of a buffer byte that nothing has written gives: unspecified (R17). A free value of the epoch and
the index. DESIGN CHOICE (log 6). -/
opaque Config.unwrittenByte : Nat → Nat → Byte

/-- `ROTL32(v, s)` for a shift outside 1 to 31: outside the contract (R55, R63, entry U3). A free value of the
operands. DESIGN CHOICE (log 9). -/
opaque Config.rotlOutside : Word → Nat → Word

end Sys2Proof
end

