-- ==== Sys2Proof/Syntax.lean ====
section
/-! DEFINITION. The instructions: one constructor for each row of spec/opcode_table.json, the four commands (format
CMD) and the 48 round steps (format STEP) of 30_encoding.md R46 to R48; and the encoded forms they are read from. -/

namespace Sys2Proof

/-- The 52 rows of the opcode table. The data byte of NOP, INIT and FINALIZE is kept though every meaning ignores it
(R49), so that no bit of a command word is dropped by the decoder (log 14). -/
inductive Instr where
  | nop (data : Byte)
  | init (data : Byte)
  | absorb (data : Byte)
  | finalize (data : Byte)
  | step0 | step1 | step2 | step3 | step4 | step5 | step6 | step7
  | step8 | step9 | step10 | step11 | step12 | step13 | step14 | step15
  | step16 | step17 | step18 | step19 | step20 | step21 | step22 | step23
  | step24 | step25 | step26 | step27 | step28 | step29 | step30 | step31
  | step32 | step33 | step34 | step35 | step36 | step37 | step38 | step39
  | step40 | step41 | step42 | step43 | step44 | step45 | step46 | step47
deriving DecidableEq, Repr

/-- An encoded instruction in one of the two formats of R46: the 10-bit command word the host presents, or the 6-bit
step index that never leaves the engine. -/
inductive Encoded where
  | cmd (w : BitVec 10)
  | step (t : BitVec 6)
deriving DecidableEq, Repr

end Sys2Proof
end

