-- ==== Sys2Proof/WellFormed.lean ====
section
/-! DEFINITION. The checks on encoded instructions and on instructions: which encodings select an instruction (R53,
R54), which spelling of a command is the canonical one (R47), which shifts ROTL32 accepts (R63). -/

namespace Sys2Proof

/-- A step index selects a step exactly when it is below 48 (R20, R54). -/
def stepIndexOk (t : BitVec 6) : Bool := t.toNat < 48

/-- An encoding selects an instruction: every command word does (R53), a step index only below 48 (R54). -/
def Encoded.wellFormed : Encoded → Bool
  | .cmd _ => true
  | .step t => stepIndexOk t

/-- The canonical spelling: the ignored bits of NOP, INIT and FINALIZE are zero (R47). Every spelling executes the
same (R49), so this is no condition of any meaning. -/
def Instr.canonical : Instr → Bool
  | .nop d => d == 0
  | .init d => d == 0
  | .finalize d => d == 0
  | .absorb _ => true
  | .step0 | .step1 | .step2 | .step3 | .step4 | .step5 | .step6 | .step7 => true
  | .step8 | .step9 | .step10 | .step11 | .step12 | .step13 | .step14 | .step15 => true
  | .step16 | .step17 | .step18 | .step19 | .step20 | .step21 | .step22 | .step23 => true
  | .step24 | .step25 | .step26 | .step27 | .step28 | .step29 | .step30 | .step31 => true
  | .step32 | .step33 | .step34 | .step35 | .step36 | .step37 | .step38 | .step39 => true
  | .step40 | .step41 | .step42 | .step43 | .step44 | .step45 | .step46 | .step47 => true

/-- A shift amount is inside the contract of ROTL32 (R55, R63). -/
def shiftOk (s : Nat) : Bool := 1 ≤ s && s ≤ 31

end Sys2Proof
end

