-- ==== Sys2Proof/Decode.lean ====
section
/-! DEFINITION. Decoding, total and rejecting by name, and encoding, both from the tables of 30_encoding.md (R46 to
R49, R54); and `decodeTableWord`, the decoder on the host's numbering of bits. -/

namespace Sys2Proof

/-- Why an encoding is rejected. -/
inductive DecodeError where
  /-- A step index 48 to 63: it selects no step (R54). Safe: no run presents one. -/
  | noSuchStep (t : BitVec 6)
  /-- A bit above the format's width is set: no such word exists at the port (R46). Safe. -/
  | strayBits
  /-- Neither one byte (a step index) nor two (a command word). Safe. -/
  | badLength (n : Nat)
deriving DecidableEq, Repr

/-- The command word's fields `op = w[9:8]` and `data = w[7:0]` (R46) give the command (R47): total (R53). -/
def decodeCmd (w : BitVec 10) : Instr :=
  let data : Byte := w.extractLsb' 0 8
  match (w.extractLsb' 8 2).toNat with
  | 0 => .nop data
  | 1 => .init data
  | 2 => .absorb data
  | _ => .finalize data

/-- The step that the 6-bit step index selects (R48); 48 to 63 select none (R54). -/
def decodeStep (t : BitVec 6) : Except DecodeError Instr :=
  match t.toNat with
  | 0 => .ok .step0
  | 1 => .ok .step1
  | 2 => .ok .step2
  | 3 => .ok .step3
  | 4 => .ok .step4
  | 5 => .ok .step5
  | 6 => .ok .step6
  | 7 => .ok .step7
  | 8 => .ok .step8
  | 9 => .ok .step9
  | 10 => .ok .step10
  | 11 => .ok .step11
  | 12 => .ok .step12
  | 13 => .ok .step13
  | 14 => .ok .step14
  | 15 => .ok .step15
  | 16 => .ok .step16
  | 17 => .ok .step17
  | 18 => .ok .step18
  | 19 => .ok .step19
  | 20 => .ok .step20
  | 21 => .ok .step21
  | 22 => .ok .step22
  | 23 => .ok .step23
  | 24 => .ok .step24
  | 25 => .ok .step25
  | 26 => .ok .step26
  | 27 => .ok .step27
  | 28 => .ok .step28
  | 29 => .ok .step29
  | 30 => .ok .step30
  | 31 => .ok .step31
  | 32 => .ok .step32
  | 33 => .ok .step33
  | 34 => .ok .step34
  | 35 => .ok .step35
  | 36 => .ok .step36
  | 37 => .ok .step37
  | 38 => .ok .step38
  | 39 => .ok .step39
  | 40 => .ok .step40
  | 41 => .ok .step41
  | 42 => .ok .step42
  | 43 => .ok .step43
  | 44 => .ok .step44
  | 45 => .ok .step45
  | 46 => .ok .step46
  | 47 => .ok .step47
  | _ => .error (.noSuchStep t)

/-- The decoder on the two formats (R46). -/
def decode : Encoded → Except DecodeError Instr
  | .cmd w => .ok (decodeCmd w)
  | .step t => decodeStep t

/-- The decoder on bytes, total: one byte holds a step index, two bytes a command word, low byte first, the bits above
the format's width zero. DESIGN CHOICE (log 1): the spec has no bytes of an instruction. -/
def decodeBytes : List Byte → Except DecodeError Instr
  | [b] => if b.toNat < 64 then decode (.step (b.setWidth 6)) else .error .strayBits
  | [lo, hi] => if hi.toNat < 4 then decode (.cmd (hi.setWidth 2 ++ lo)) else .error .strayBits
  | bs => .error (.badLength bs.length)

/-- The encoding of an instruction: `op` above `data` for a command (R46, R47), the step index for a step (R48). -/
def encode : Instr → Encoded
  | .nop data => .cmd (0b00#2 ++ data)
  | .init data => .cmd (0b01#2 ++ data)
  | .absorb data => .cmd (0b10#2 ++ data)
  | .finalize data => .cmd (0b11#2 ++ data)
  | .step0 => .step 0
  | .step1 => .step 1
  | .step2 => .step 2
  | .step3 => .step 3
  | .step4 => .step 4
  | .step5 => .step 5
  | .step6 => .step 6
  | .step7 => .step 7
  | .step8 => .step 8
  | .step9 => .step 9
  | .step10 => .step 10
  | .step11 => .step 11
  | .step12 => .step 12
  | .step13 => .step 13
  | .step14 => .step 14
  | .step15 => .step 15
  | .step16 => .step 16
  | .step17 => .step 17
  | .step18 => .step 18
  | .step19 => .step 19
  | .step20 => .step 20
  | .step21 => .step 21
  | .step22 => .step 22
  | .step23 => .step 23
  | .step24 => .step 24
  | .step25 => .step 25
  | .step26 => .step 26
  | .step27 => .step 27
  | .step28 => .step 28
  | .step29 => .step 29
  | .step30 => .step 30
  | .step31 => .step 31
  | .step32 => .step 32
  | .step33 => .step 33
  | .step34 => .step 34
  | .step35 => .step 35
  | .step36 => .step 36
  | .step37 => .step 37
  | .step38 => .step 38
  | .step39 => .step 39
  | .step40 => .step 40
  | .step41 => .step 41
  | .step42 => .step 42
  | .step43 => .step 43
  | .step44 => .step 44
  | .step45 => .step 45
  | .step46 => .step 46
  | .step47 => .step 47

/-- The bytes of an encoded instruction, as `decodeBytes` reads them (log 1). -/
def encodeBytes (i : Instr) : List Byte :=
  match encode i with
  | .step t => [t.setWidth 8]
  | .cmd w => [w.extractLsb' 0 8, (w.extractLsb' 8 2).setWidth 8]

/-- The instruction the decoder reads from a word numbered as spec/opcode_table.json numbers its bits: rows of up to 8
bits are step indexes, rows of 9 to 16 bits command words. -/
def decodeTableWord (nbits w : Nat) : Option Instr :=
  let bytes : Option (List Byte) :=
    if nbits = 0 then none
    else if nbits ≤ 8 then (if w < 2 ^ 8 then some [BitVec.ofNat 8 w] else none)
    else if nbits ≤ 16 then (if w < 2 ^ 16 then some [BitVec.ofNat 8 w, BitVec.ofNat 8 (w / 2 ^ 8)] else none)
    else none
  match bytes with
  | none => none
  | some bs => (decodeBytes bs).toOption

end Sys2Proof
end

