-- ==== Sys2Proof/Machine/State.lean ====
section
/-! DEFINITION. The machine's state as plain data: the five elements of the Digest Context (10_state.md R13), the
transient elements the round steps act on (R15, R20, R21), the stimulus at the engine's ports, and the reset state. -/

namespace Sys2Proof.Machine

/-- The storage of the block buffer as (index, byte) pairs in one canonical form, `Memory.wf`. An index that is not
listed has no value: its content is unspecified (R17, log 6). -/
abbrev Memory := List Host.Cell

/-- Where the engine stands between two steps: idle; or inside a TRANSFORM with STEP t next (R20); or after step 47
with the four feed-forward additions next (42_compression.md R152 line 4). DESIGN CHOICE (log 4). -/
inductive Sequencer where
  | idle
  | round (t : BitVec 6)
  | addBack
deriving DecidableEq, Repr

/-- What the host drives on the engine's input ports at one moment (45_host_interface.md R190). -/
structure PortSample where
  reset : Bool
  cmdValid : Bool
  cmd : BitVec 10
deriving DecidableEq, Repr

/-- The state of the engine and, beside it, the command stream at its port. -/
structure State where
  /-- `CV`, the chaining words (R14). -/
  cv : Chain
  /-- `total`, the count of absorbed bytes (R16). -/
  total : BitVec 64
  /-- `buf[0..63]`, the storage of the block buffer (R17). -/
  buf : Memory
  /-- `len`, the occupancy of `buf` (R17). -/
  len : BitVec 6
  /-- `done`, set by FINALIZE (R19). -/
  done : Bool
  /-- The working registers A, B, C, D of one TRANSFORM (R15); transient. -/
  work : Chain
  /-- The work words X[0..15] (R21); transient. -/
  X : WorkWords
  /-- The step index t and whether a TRANSFORM is in progress (R20); transient. -/
  seq : Sequencer
  /-- The command stream: the port at successive moments, the next one first (20_memory.md R31; log 2). -/
  inputs : List PortSample
  /-- The model's own: how many times the transient elements were released; the free values are applied to it (log 5). -/
  epoch : Nat
deriving DecidableEq, Repr

/-- The reasons a step stops with a fault: none, since the engine raises no exception, fault, trap or error in any
state (60_exceptions.md R200). -/
inductive Fault where
deriving DecidableEq, Repr

/-- The reasons the model has no meaning for a step. -/
inductive Refusal where
  /-- An instruction whose meaning is not written yet; raised by no arm of `exec` now. Safe. -/
  | notModelled (mnemonic : String)
  /-- The sequencer holds a step index 48 to 63, which selects no step (30_encoding.md R54, entry U8). Raised by
  `step` alone, in states no run reaches. Safe (log 12). -/
  | noSuchStep (t : BitVec 6)
deriving DecidableEq, Repr

/-! The updates of one field each. -/

def State.setCv (s : State) (v : Chain) : State := { s with cv := v }
def State.setTotal (s : State) (v : BitVec 64) : State := { s with total := v }
def State.setBuf (s : State) (v : Memory) : State := { s with buf := v }
def State.setLen (s : State) (v : BitVec 6) : State := { s with len := v }
def State.setDone (s : State) (v : Bool) : State := { s with done := v }
def State.setWork (s : State) (v : Chain) : State := { s with work := v }
def State.setX (s : State) (v : WorkWords) : State := { s with X := v }
def State.setSeq (s : State) (v : Sequencer) : State := { s with seq := v }
def State.setInputs (s : State) (v : List PortSample) : State := { s with inputs := v }
def State.setEpoch (s : State) (v : Nat) : State := { s with epoch := v }

/-- The machine right after reset (10_state.md R25, 70_reset_and_hazards.md R216): CV = MD4_IV, total = 0, len = 0,
done = 0; the rest unspecified, here free values and an empty listing (log 5, 6), with no TRANSFORM in progress (log 4)
and nothing presented at the port (log 3). -/
def State.reset : State where
  cv := Config.md4IV
  total := 0#64
  buf := []
  len := 0#6
  done := false
  work := Config.transientChain 0
  X := Config.transientWords 0
  seq := .idle
  inputs := []
  epoch := 1

end Sys2Proof.Machine
end

