-- ==== Sys2Proof/Machine/Flags.lean ====
section
/-! DEFINITION. The one status flag, `done` (10_state.md R19). There is no carry, zero, overflow or condition code. -/

namespace Sys2Proof.Machine

/-- FINALIZE sets `done` (R19, 44_finalizer.md R173). -/
def markDone (s : State) : State := s.setDone true

/-- INIT and hardware reset clear `done` (R19, 43_init_absorb.md R161). -/
def clearDone (s : State) : State := s.setDone false

end Sys2Proof.Machine
end

