-- ==== Sys2Proof/Machine/Primitives.lean ====
section
/-! DEFINITION. The word primitives (40_word_primitives.md R61 to R68): word_adder_32b, rotator_32b and the bitwise
logic; and the byte-order helpers (20_memory.md R35). Pure functions with no state and no flag. -/

namespace Sys2Proof.Machine

/-- `ADD32(a, b) = (a + b) mod 2^32`, the sum on integers; the carry is recorded nowhere (R61). -/
def ADD32 (a b : Word) : Word := BitVec.ofNat 32 (a.toNat + b.toNat)

/-- `ROTL32(v, s) = (v << s) | (v >> (32 - s))` for s in 1 to 31, both shifts logical (R63, R64). Outside that range
the contract gives nothing: a free value (R55, entry U3; log 9). -/
def ROTL32 (v : Word) (s : Nat) : Word :=
  if shiftOk s then (v <<< s) ||| (v >>> (32 - s)) else Config.rotlOutside v s

/-- `a AND b` (R65). -/
def AND32 (a b : Word) : Word := a &&& b

/-- `a OR b` (R66). -/
def OR32 (a b : Word) : Word := a ||| b

/-- `a XOR b` (R67). -/
def XOR32 (a b : Word) : Word := a ^^^ b

/-- `NOT a` (R68). -/
def NOT32 (a : Word) : Word := ~~~a

/-- Four bytes, the low-order byte first, as a word: zero-extended and summed on integers (R35 item 1, R150). -/
def leWord (b0 b1 b2 b3 : Byte) : Word :=
  BitVec.ofNat 32 (b0.toNat + 2 ^ 8 * b1.toNat + 2 ^ 16 * b2.toNat + 2 ^ 24 * b3.toNat)

/-- The bytes of a word, the low-order byte first (R35 item 3). -/
def wordBytes (w : Word) : List Byte :=
  [w.extractLsb' 0 8, w.extractLsb' 8 8, w.extractLsb' 16 8, w.extractLsb' 24 8]

/-- The bytes of the 64-bit bit count, the low-order byte first (R35 item 2). -/
def countBytes (c : BitVec 64) : List Byte :=
  [c.extractLsb' 0 8, c.extractLsb' 8 8, c.extractLsb' 16 8, c.extractLsb' 24 8,
   c.extractLsb' 32 8, c.extractLsb' 40 8, c.extractLsb' 48 8, c.extractLsb' 56 8]

/-- The four additions of 42_compression.md R152 line 4, letter by letter. -/
def chainAdd (v w : Chain) : Chain :=
  ⟨ADD32 v.A w.A, ADD32 v.B w.B, ADD32 v.C w.C, ADD32 v.D w.D⟩

/-- The sixteen bytes of four words in the order A, B, C, D (44_finalizer.md R180). -/
def chainBytes (v : Chain) : List Byte :=
  wordBytes v.A ++ wordBytes v.B ++ wordBytes v.C ++ wordBytes v.D

end Sys2Proof.Machine
end

