-- ==== Sys2Proof/Machine/RoundLogic.lean ====
section
/-! DEFINITION. md4_round_logic: the auxiliary functions F, G, H (41_round_logic.md R73 to R75) and the step functions
FF, GG, HH (R76 to R78). -/

namespace Sys2Proof.Machine

/-- `F(b, c, d) = (b AND c) OR ((NOT b) AND d)` (R73). -/
def F (b c d : Word) : Word := OR32 (AND32 b c) (AND32 (NOT32 b) d)

/-- `G(b, c, d) = (b AND (c OR d)) OR (c AND d)` (R74). -/
def G (b c d : Word) : Word := OR32 (AND32 b (OR32 c d)) (AND32 c d)

/-- `H(b, c, d) = b XOR c XOR d` (R75). -/
def H (b c d : Word) : Word := XOR32 (XOR32 b c) d

/-- `FF(a, b, c, d, x, s)` (R76): no constant is added. -/
def FF (a b c d x : Word) (s : Nat) : Word := ROTL32 (ADD32 (ADD32 a (F b c d)) x) s

/-- `GG(a, b, c, d, x, s)` (R77). -/
def GG (a b c d x : Word) (s : Nat) : Word := ROTL32 (ADD32 (ADD32 (ADD32 a (G b c d)) x) Config.kRound2) s

/-- `HH(a, b, c, d, x, s)` (R78). -/
def HH (a b c d x : Word) (s : Nat) : Word := ROTL32 (ADD32 (ADD32 (ADD32 a (H b c d)) x) Config.kRound3) s

end Sys2Proof.Machine
end

