-- ==== Sys2Proof/Machine/Operands.lean ====
section
/-! DEFINITION. The operands of a step: which step function, which working registers, which work word and which shift
(41_round_logic.md R79 to R83), and the step itself, `STEP` (R84). -/

namespace Sys2Proof.Machine

/-- The four working registers by name (R15). -/
inductive WReg where
  | A | B | C | D
deriving DecidableEq, Repr

/-- The three step functions by name (R76 to R78). -/
inductive RoundFn where
  | FF | GG | HH
deriving DecidableEq, Repr

/-- One row of the step table of R83: `a <- fn(a, b, c, d, X[k], s)`. -/
structure StepRow where
  fn : RoundFn
  a : WReg
  b : WReg
  c : WReg
  d : WReg
  k : Fin 16
  s : Nat
deriving DecidableEq, Repr

/-- Reading a working register. -/
def readWork (w : Chain) : WReg → Word
  | .A => w.A
  | .B => w.B
  | .C => w.C
  | .D => w.D

/-- Writing a working register; the other three keep their values (R80). -/
def writeWork (w : Chain) (r : WReg) (v : Word) : Chain :=
  match r with
  | .A => { w with A := v }
  | .B => { w with B := v }
  | .C => { w with C := v }
  | .D => { w with D := v }

/-- The step function a name stands for. -/
def applyFn : RoundFn → Word → Word → Word → Word → Word → Nat → Word
  | .FF => FF
  | .GG => GG
  | .HH => HH

/-- The step function of the round t / 16 (R79). -/
def roundFnOf (t : Fin 48) : RoundFn :=
  match t.val / 16 with
  | 0 => .FF
  | 1 => .GG
  | _ => .HH

/-- The position of a step in its round (R79). -/
def positionOf (t : Fin 48) : Fin 16 := ⟨t.val % 16, Nat.mod_lt _ (by decide)⟩

/-- The position of a step in the four-step pattern (R52, R79). -/
def patternOf (t : Fin 48) : Fin 4 := ⟨t.val % 16 % 4, Nat.mod_lt _ (by decide)⟩

/-- The operand registers (a, b, c, d) at a pattern position (R80). UNVERIFIED (log 11): the spec completes the source's
rotation pattern from general knowledge (D9). -/
def operandRegs : Fin 4 → WReg × WReg × WReg × WReg
  | 0 => (.A, .B, .C, .D)
  | 1 => (.D, .A, .B, .C)
  | 2 => (.C, .D, .A, .B)
  | 3 => (.B, .C, .D, .A)

/-- The shift amounts of a round at the four pattern positions (R81). -/
def shiftTable : RoundFn → Vector Nat 4
  | .FF => #v[3, 7, 11, 19]
  | .GG => #v[3, 5, 9, 13]
  | .HH => #v[3, 9, 11, 15]

/-- The order in which a round reads the work words (R82). -/
def wordOrder : RoundFn → Vector (Fin 16) 16
  | .FF => #v[0, 1, 2, 3, 4, 5, 6, 7, 8, 9, 10, 11, 12, 13, 14, 15]
  | .GG => #v[0, 4, 8, 12, 1, 5, 9, 13, 2, 6, 10, 14, 3, 7, 11, 15]
  | .HH => #v[0, 8, 4, 12, 2, 10, 6, 14, 1, 9, 5, 13, 3, 11, 7, 15]

/-- Row t of the step table: the product of R79 to R82 (R83). -/
def stepRow (t : Fin 48) : StepRow :=
  let fn := roundFnOf t
  let regs := operandRegs (patternOf t)
  { fn := fn
    a := regs.1
    b := regs.2.1
    c := regs.2.2.1
    d := regs.2.2.2
    k := (wordOrder fn)[positionOf t]
    s := (shiftTable fn)[patternOf t] }

/-- `STEP(t, (A, B, C, D), X)` (R84): the destination register is replaced by `fn(a, b, c, d, X[k], s)`. -/
def STEP (t : Fin 48) (w : Chain) (X : WorkWords) : Chain :=
  let r := stepRow t
  writeWork w r.a
    (applyFn r.fn (readWork w r.a) (readWork w r.b) (readWork w r.c) (readWork w r.d) X[r.k] r.s)

end Sys2Proof.Machine
end

