-- ==== Sys2Proof/Machine/Ops.lean ====
section
/-! DEFINITION. The shared operations: the block buffer (20_memory.md R32, R33), DECODE and TRANSFORM
(42_compression.md R150 to R155), the context reset of INIT and of hardware reset (43_init_absorb.md R161,
70_reset_and_hazards.md R216), ABSORB_BYTE (R163) and the padding of FINALIZE (44_finalizer.md R173 to R176). The spec
gives no exception and no return from one (60_exceptions.md R200, R204, R205), so none stands here. -/

namespace Sys2Proof.Machine

/-! ### The block buffer -/

/-- The canonical form of the storage: indexes strictly rising and below 64 (R31). -/
abbrev Memory.wf (m : Memory) : Prop :=
  (m.map Prod.fst).Pairwise (· < ·) ∧ ∀ c ∈ m, c.1 < 64

/-- The byte listed at an index; none where nothing has been written. -/
def Memory.read : Memory → Nat → Option Byte
  | [], _ => none
  | (c, x) :: m, a => if c = a then some x else Memory.read m a

/-- Store one byte, keeping the canonical form. -/
def Memory.write : Memory → Nat → Byte → Memory
  | [], a, b => [(a, b)]
  | (c, x) :: m, a, b =>
    if a < c then (a, b) :: (c, x) :: m
    else if a = c then (a, b) :: m
    else (c, x) :: Memory.write m a b

/-- `BufWrite(b)`: `buf[len] <- b` (R32). The caller advances `len`. -/
def bufWrite (s : State) (b : Byte) : State := s.setBuf (s.buf.write s.len.toNat b)

/-- One byte of the buffer as a read gives it; where nothing has been written, a free value (R17; log 6). -/
def bufByte (s : State) (i : Nat) : Byte := (s.buf.read i).getD (Config.unwrittenByte s.epoch i)

/-- `BufRead(addr, n)`: the n bytes buf[addr] to buf[addr+n-1] in that order (R33). -/
def bufRead (s : State) (addr n : Nat) : List Byte := (List.range n).map fun i => bufByte s (addr + i)

/-- The whole block buffer, which is what TRANSFORM reads (R37, R150). -/
def bufBlock (s : State) : Block := Vector.ofFn fun i : Fin 64 => bufByte s i.val

/-! ### DECODE and TRANSFORM -/

/-- `DECODE(block)`: word j is the bytes 4j to 4j+3, the low-order byte first (R150). -/
def DECODE (block : Block) : WorkWords :=
  Vector.ofFn fun j : Fin 16 =>
    leWord block[4 * j.val] block[4 * j.val + 1] block[4 * j.val + 2] block[4 * j.val + 3]

/-- `ROUNDS48`: the steps 0 to 47 in index order (41_round_logic.md R84). Irreducible, so that no comparison of two
states unfolds 48 steps on variables; `unfold` and the kernel still compute it. -/
@[irreducible] def ROUNDS48 (w : Chain) (X : WorkWords) : Chain :=
  (List.finRange 48).foldl (fun w t => STEP t w X) w

/-- `TRANSFORM(cv, block)`, the pure function of R152. -/
def TRANSFORM (cv : Chain) (block : Block) : Chain := chainAdd cv (ROUNDS48 cv (DECODE block))

/-- Give up the transient elements: from here their content is unspecified, a free value of the epoch (R15, R21, R155;
log 5). -/
def releaseTransient (s : State) : State :=
  ((s.setWork (Config.transientChain s.epoch)).setX (Config.transientWords s.epoch)).setEpoch (s.epoch + 1)

/-- Where the sequencer goes after STEP t: t advances by one and stops after step 47 (10_state.md R20). -/
def nextSeq (t : BitVec 6) : Sequencer := if t = 47#6 then .addBack else .round (t + 1#6)

/-- Lines 1 and 2 of R152 on the engine's registers: X is decoded from the buffer, the chaining words are copied into
the working registers, and the step index starts at 0 (R20). -/
def beginTransform (s : State) : State :=
  ((s.setX (DECODE (bufBlock s))).setWork s.cv).setSeq (.round 0#6)

/-- One pass of line 3 of R152: STEP t on the working registers, and the step index advances. -/
def roundStep (s : State) (t : Fin 48) : State :=
  (s.setWork (STEP t s.work s.X)).setSeq (nextSeq (BitVec.ofNat 6 t.val))

/-- Line 4 of R152: the working registers are added back into the chaining words; the TRANSFORM is over and the
transient elements are given up (R155). -/
def addBack (s : State) : State := releaseTransient ((s.setCv (chainAdd s.cv s.work)).setSeq .idle)

/-- TRANSFORM applied to the engine's state, `CV <- TRANSFORM(CV, buf[0..63])` (R153), all inside one command (R40).
Irreducible for the same reason as `ROUNDS48`; `runTransform_eq` says everything it does. -/
@[irreducible] def runTransform (s : State) : State := addBack ((List.finRange 48).foldl roundStep (beginTransform s))

/-! ### Context reset -/

/-- The context reset of INIT: CV <- MD4_IV, total <- 0, len <- 0, done <- 0; the storage is not written (R161, D24).
DESIGN CHOICE: the storage (log 7), and the working registers and X, whose content after INIT R25 leaves unspecified
(log 20), stay as they are. -/
def contextReset (s : State) : State :=
  clearDone (((s.setCv Config.md4IV).setTotal 0#64).setLen 0#6)

/-- Hardware reset (R216): the context reset; a running TRANSFORM is abandoned (R217); buffer content, working
registers and X are left unspecified (log 5, 6). -/
def hardwareReset (s : State) : State :=
  releaseTransient (((contextReset s).setBuf []).setSeq .idle)

/-! ### ABSORB_BYTE -/

/-- `ABSORB_BYTE(b)` (R163): total counts up; the byte is stored at index len; the 64th byte of a block runs TRANSFORM
and empties the buffer, any other advances len. DESIGN CHOICE: the bytes that go stale when len becomes 0, whose content
R17 leaves unspecified, keep the values last written (log 19); an ABSORB that runs no TRANSFORM leaves the working
registers and X as they are (log 20). -/
def absorbByte (s : State) (b : Byte) : State :=
  let s₁ := bufWrite (s.setTotal (s.total + 1#64)) b
  if s.len = 63#6 then (runTransform s₁).setLen 0#6 else s₁.setLen (s.len + 1#6)

/-- A sequence of bytes absorbed first to last (44_finalizer.md R173 step 5, 45_host_interface.md R193). -/
def absorbBytes (s : State) (bs : List Byte) : State := bs.foldl absorbByte s

/-! ### Padding -/

/-- `padLen` of `idx` (R174). -/
def padLen (idx : Nat) : Nat := if idx < 56 then 56 - idx else 120 - idx

/-- The bit count `(total * 8) mod 2^64` (R175). -/
def bitCount (total : BitVec 64) : BitVec 64 := BitVec.ofNat 64 (total.toNat * 8)

/-- `PADSEQ(padLen, bits)`: 0x80, zeros, and the bit count low-order byte first: padLen + 8 bytes (R176). -/
def PADSEQ (n : Nat) (bits : BitVec 64) : List Byte :=
  Config.padFirstByte :: (List.replicate (n - 1) 0#8 ++ countBytes bits)

/-- The padding FINALIZE absorbs, from the value of `total` when it starts (R173). -/
def paddingOf (total : BitVec 64) : List Byte := PADSEQ (padLen (total.toNat % 64)) (bitCount total)

end Sys2Proof.Machine
end

