-- ==== Sys2Proof/Machine/Commands.lean ====
section
/-! DEFINITION. The meanings of the four commands: NOP, INIT, ABSORB (43_init_absorb.md) and FINALIZE
(44_finalizer.md). None reads `done`, none can fail (60_exceptions.md R200, R206; log 8). -/

namespace Sys2Proof.Machine

/-- `NOP`: every state element keeps its value (R160); the data bits are ignored (R49). -/
def execNop (_ : Byte) (s : State) : Host.Outcome State Fault Refusal := .next s

/-- `INIT`: the context reset (R161); the data bits are ignored (R49). -/
def execInit (_ : Byte) (s : State) : Host.Outcome State Fault Refusal := .next (contextReset s)

/-- `ABSORB b`: ABSORB_BYTE(b) (R163). -/
def execAbsorb (b : Byte) (s : State) : Host.Outcome State Fault Refusal := .next (absorbByte s b)

/-- `FINALIZE`: the padding sequence, computed from `total` before any of it is absorbed, goes through ABSORB_BYTE, and
`done` is set (R173); the data bits are ignored (R49). -/
def execFinalize (_ : Byte) (s : State) : Host.Outcome State Fault Refusal :=
  .next (markDone (absorbBytes s (paddingOf s.total)))

end Sys2Proof.Machine
end

