-- ==== Sys2Proof/Machine/Round1.lean ====
section
/-! DEFINITION. The meanings of STEP0 to STEP15, round 1 (FF): each written from its own rule R100 to R115 of
41_round_logic.md. A step writes one working register and nothing else (R84). -/

namespace Sys2Proof.Machine

/-- `A <- FF(A, B, C, D, X[0], 3)` (R100). -/
def execStep0 (s : State) : Host.Outcome State Fault Refusal :=
  .next (s.setWork (writeWork s.work .A (FF s.work.A s.work.B s.work.C s.work.D s.X[0] 3)))

/-- `D <- FF(D, A, B, C, X[1], 7)` (R101). -/
def execStep1 (s : State) : Host.Outcome State Fault Refusal :=
  .next (s.setWork (writeWork s.work .D (FF s.work.D s.work.A s.work.B s.work.C s.X[1] 7)))

/-- `C <- FF(C, D, A, B, X[2], 11)` (R102). -/
def execStep2 (s : State) : Host.Outcome State Fault Refusal :=
  .next (s.setWork (writeWork s.work .C (FF s.work.C s.work.D s.work.A s.work.B s.X[2] 11)))

/-- `B <- FF(B, C, D, A, X[3], 19)` (R103). -/
def execStep3 (s : State) : Host.Outcome State Fault Refusal :=
  .next (s.setWork (writeWork s.work .B (FF s.work.B s.work.C s.work.D s.work.A s.X[3] 19)))

/-- `A <- FF(A, B, C, D, X[4], 3)` (R104). -/
def execStep4 (s : State) : Host.Outcome State Fault Refusal :=
  .next (s.setWork (writeWork s.work .A (FF s.work.A s.work.B s.work.C s.work.D s.X[4] 3)))

/-- `D <- FF(D, A, B, C, X[5], 7)` (R105). -/
def execStep5 (s : State) : Host.Outcome State Fault Refusal :=
  .next (s.setWork (writeWork s.work .D (FF s.work.D s.work.A s.work.B s.work.C s.X[5] 7)))

/-- `C <- FF(C, D, A, B, X[6], 11)` (R106). -/
def execStep6 (s : State) : Host.Outcome State Fault Refusal :=
  .next (s.setWork (writeWork s.work .C (FF s.work.C s.work.D s.work.A s.work.B s.X[6] 11)))

/-- `B <- FF(B, C, D, A, X[7], 19)` (R107). -/
def execStep7 (s : State) : Host.Outcome State Fault Refusal :=
  .next (s.setWork (writeWork s.work .B (FF s.work.B s.work.C s.work.D s.work.A s.X[7] 19)))

/-- `A <- FF(A, B, C, D, X[8], 3)` (R108). -/
def execStep8 (s : State) : Host.Outcome State Fault Refusal :=
  .next (s.setWork (writeWork s.work .A (FF s.work.A s.work.B s.work.C s.work.D s.X[8] 3)))

/-- `D <- FF(D, A, B, C, X[9], 7)` (R109). -/
def execStep9 (s : State) : Host.Outcome State Fault Refusal :=
  .next (s.setWork (writeWork s.work .D (FF s.work.D s.work.A s.work.B s.work.C s.X[9] 7)))

/-- `C <- FF(C, D, A, B, X[10], 11)` (R110). -/
def execStep10 (s : State) : Host.Outcome State Fault Refusal :=
  .next (s.setWork (writeWork s.work .C (FF s.work.C s.work.D s.work.A s.work.B s.X[10] 11)))

/-- `B <- FF(B, C, D, A, X[11], 19)` (R111). -/
def execStep11 (s : State) : Host.Outcome State Fault Refusal :=
  .next (s.setWork (writeWork s.work .B (FF s.work.B s.work.C s.work.D s.work.A s.X[11] 19)))

/-- `A <- FF(A, B, C, D, X[12], 3)` (R112). -/
def execStep12 (s : State) : Host.Outcome State Fault Refusal :=
  .next (s.setWork (writeWork s.work .A (FF s.work.A s.work.B s.work.C s.work.D s.X[12] 3)))

/-- `D <- FF(D, A, B, C, X[13], 7)` (R113). -/
def execStep13 (s : State) : Host.Outcome State Fault Refusal :=
  .next (s.setWork (writeWork s.work .D (FF s.work.D s.work.A s.work.B s.work.C s.X[13] 7)))

/-- `C <- FF(C, D, A, B, X[14], 11)` (R114). -/
def execStep14 (s : State) : Host.Outcome State Fault Refusal :=
  .next (s.setWork (writeWork s.work .C (FF s.work.C s.work.D s.work.A s.work.B s.X[14] 11)))

/-- `B <- FF(B, C, D, A, X[15], 19)` (R115). -/
def execStep15 (s : State) : Host.Outcome State Fault Refusal :=
  .next (s.setWork (writeWork s.work .B (FF s.work.B s.work.C s.work.D s.work.A s.X[15] 19)))

end Sys2Proof.Machine
end

