-- ==== Sys2Proof/Machine/Round2.lean ====
section
/-! DEFINITION. The meanings of STEP16 to STEP31, round 2 (GG): each written from its own rule R116 to R131 of
41_round_logic.md. A step writes one working register and nothing else (R84). -/

namespace Sys2Proof.Machine

/-- `A <- GG(A, B, C, D, X[0], 3)` (R116). -/
def execStep16 (s : State) : Host.Outcome State Fault Refusal :=
  .next (s.setWork (writeWork s.work .A (GG s.work.A s.work.B s.work.C s.work.D s.X[0] 3)))

/-- `D <- GG(D, A, B, C, X[4], 5)` (R117). -/
def execStep17 (s : State) : Host.Outcome State Fault Refusal :=
  .next (s.setWork (writeWork s.work .D (GG s.work.D s.work.A s.work.B s.work.C s.X[4] 5)))

/-- `C <- GG(C, D, A, B, X[8], 9)` (R118). -/
def execStep18 (s : State) : Host.Outcome State Fault Refusal :=
  .next (s.setWork (writeWork s.work .C (GG s.work.C s.work.D s.work.A s.work.B s.X[8] 9)))

/-- `B <- GG(B, C, D, A, X[12], 13)` (R119). -/
def execStep19 (s : State) : Host.Outcome State Fault Refusal :=
  .next (s.setWork (writeWork s.work .B (GG s.work.B s.work.C s.work.D s.work.A s.X[12] 13)))

/-- `A <- GG(A, B, C, D, X[1], 3)` (R120). -/
def execStep20 (s : State) : Host.Outcome State Fault Refusal :=
  .next (s.setWork (writeWork s.work .A (GG s.work.A s.work.B s.work.C s.work.D s.X[1] 3)))

/-- `D <- GG(D, A, B, C, X[5], 5)` (R121). -/
def execStep21 (s : State) : Host.Outcome State Fault Refusal :=
  .next (s.setWork (writeWork s.work .D (GG s.work.D s.work.A s.work.B s.work.C s.X[5] 5)))

/-- `C <- GG(C, D, A, B, X[9], 9)` (R122). -/
def execStep22 (s : State) : Host.Outcome State Fault Refusal :=
  .next (s.setWork (writeWork s.work .C (GG s.work.C s.work.D s.work.A s.work.B s.X[9] 9)))

/-- `B <- GG(B, C, D, A, X[13], 13)` (R123). -/
def execStep23 (s : State) : Host.Outcome State Fault Refusal :=
  .next (s.setWork (writeWork s.work .B (GG s.work.B s.work.C s.work.D s.work.A s.X[13] 13)))

/-- `A <- GG(A, B, C, D, X[2], 3)` (R124). -/
def execStep24 (s : State) : Host.Outcome State Fault Refusal :=
  .next (s.setWork (writeWork s.work .A (GG s.work.A s.work.B s.work.C s.work.D s.X[2] 3)))

/-- `D <- GG(D, A, B, C, X[6], 5)` (R125). -/
def execStep25 (s : State) : Host.Outcome State Fault Refusal :=
  .next (s.setWork (writeWork s.work .D (GG s.work.D s.work.A s.work.B s.work.C s.X[6] 5)))

/-- `C <- GG(C, D, A, B, X[10], 9)` (R126). -/
def execStep26 (s : State) : Host.Outcome State Fault Refusal :=
  .next (s.setWork (writeWork s.work .C (GG s.work.C s.work.D s.work.A s.work.B s.X[10] 9)))

/-- `B <- GG(B, C, D, A, X[14], 13)` (R127). -/
def execStep27 (s : State) : Host.Outcome State Fault Refusal :=
  .next (s.setWork (writeWork s.work .B (GG s.work.B s.work.C s.work.D s.work.A s.X[14] 13)))

/-- `A <- GG(A, B, C, D, X[3], 3)` (R128). -/
def execStep28 (s : State) : Host.Outcome State Fault Refusal :=
  .next (s.setWork (writeWork s.work .A (GG s.work.A s.work.B s.work.C s.work.D s.X[3] 3)))

/-- `D <- GG(D, A, B, C, X[7], 5)` (R129). -/
def execStep29 (s : State) : Host.Outcome State Fault Refusal :=
  .next (s.setWork (writeWork s.work .D (GG s.work.D s.work.A s.work.B s.work.C s.X[7] 5)))

/-- `C <- GG(C, D, A, B, X[11], 9)` (R130). -/
def execStep30 (s : State) : Host.Outcome State Fault Refusal :=
  .next (s.setWork (writeWork s.work .C (GG s.work.C s.work.D s.work.A s.work.B s.X[11] 9)))

/-- `B <- GG(B, C, D, A, X[15], 13)` (R131). -/
def execStep31 (s : State) : Host.Outcome State Fault Refusal :=
  .next (s.setWork (writeWork s.work .B (GG s.work.B s.work.C s.work.D s.work.A s.X[15] 13)))

end Sys2Proof.Machine
end

