-- ==== Sys2Proof/Machine/Round3.lean ====
section
/-! DEFINITION. The meanings of STEP32 to STEP47, round 3 (HH): each written from its own rule R132 to R147 of
41_round_logic.md. A step writes one working register and nothing else (R84). -/

namespace Sys2Proof.Machine

/-- `A <- HH(A, B, C, D, X[0], 3)` (R132). -/
def execStep32 (s : State) : Host.Outcome State Fault Refusal :=
  .next (s.setWork (writeWork s.work .A (HH s.work.A s.work.B s.work.C s.work.D s.X[0] 3)))

/-- `D <- HH(D, A, B, C, X[8], 9)` (R133). -/
def execStep33 (s : State) : Host.Outcome State Fault Refusal :=
  .next (s.setWork (writeWork s.work .D (HH s.work.D s.work.A s.work.B s.work.C s.X[8] 9)))

/-- `C <- HH(C, D, A, B, X[4], 11)` (R134). -/
def execStep34 (s : State) : Host.Outcome State Fault Refusal :=
  .next (s.setWork (writeWork s.work .C (HH s.work.C s.work.D s.work.A s.work.B s.X[4] 11)))

/-- `B <- HH(B, C, D, A, X[12], 15)` (R135). -/
def execStep35 (s : State) : Host.Outcome State Fault Refusal :=
  .next (s.setWork (writeWork s.work .B (HH s.work.B s.work.C s.work.D s.work.A s.X[12] 15)))

/-- `A <- HH(A, B, C, D, X[2], 3)` (R136). -/
def execStep36 (s : State) : Host.Outcome State Fault Refusal :=
  .next (s.setWork (writeWork s.work .A (HH s.work.A s.work.B s.work.C s.work.D s.X[2] 3)))

/-- `D <- HH(D, A, B, C, X[10], 9)` (R137). -/
def execStep37 (s : State) : Host.Outcome State Fault Refusal :=
  .next (s.setWork (writeWork s.work .D (HH s.work.D s.work.A s.work.B s.work.C s.X[10] 9)))

/-- `C <- HH(C, D, A, B, X[6], 11)` (R138). -/
def execStep38 (s : State) : Host.Outcome State Fault Refusal :=
  .next (s.setWork (writeWork s.work .C (HH s.work.C s.work.D s.work.A s.work.B s.X[6] 11)))

/-- `B <- HH(B, C, D, A, X[14], 15)` (R139). -/
def execStep39 (s : State) : Host.Outcome State Fault Refusal :=
  .next (s.setWork (writeWork s.work .B (HH s.work.B s.work.C s.work.D s.work.A s.X[14] 15)))

/-- `A <- HH(A, B, C, D, X[1], 3)` (R140). -/
def execStep40 (s : State) : Host.Outcome State Fault Refusal :=
  .next (s.setWork (writeWork s.work .A (HH s.work.A s.work.B s.work.C s.work.D s.X[1] 3)))

/-- `D <- HH(D, A, B, C, X[9], 9)` (R141). -/
def execStep41 (s : State) : Host.Outcome State Fault Refusal :=
  .next (s.setWork (writeWork s.work .D (HH s.work.D s.work.A s.work.B s.work.C s.X[9] 9)))

/-- `C <- HH(C, D, A, B, X[5], 11)` (R142). -/
def execStep42 (s : State) : Host.Outcome State Fault Refusal :=
  .next (s.setWork (writeWork s.work .C (HH s.work.C s.work.D s.work.A s.work.B s.X[5] 11)))

/-- `B <- HH(B, C, D, A, X[13], 15)` (R143). -/
def execStep43 (s : State) : Host.Outcome State Fault Refusal :=
  .next (s.setWork (writeWork s.work .B (HH s.work.B s.work.C s.work.D s.work.A s.X[13] 15)))

/-- `A <- HH(A, B, C, D, X[3], 3)` (R144). -/
def execStep44 (s : State) : Host.Outcome State Fault Refusal :=
  .next (s.setWork (writeWork s.work .A (HH s.work.A s.work.B s.work.C s.work.D s.X[3] 3)))

/-- `D <- HH(D, A, B, C, X[11], 9)` (R145). -/
def execStep45 (s : State) : Host.Outcome State Fault Refusal :=
  .next (s.setWork (writeWork s.work .D (HH s.work.D s.work.A s.work.B s.work.C s.X[11] 9)))

/-- `C <- HH(C, D, A, B, X[7], 11)` (R146). -/
def execStep46 (s : State) : Host.Outcome State Fault Refusal :=
  .next (s.setWork (writeWork s.work .C (HH s.work.C s.work.D s.work.A s.work.B s.X[7] 11)))

/-- `B <- HH(B, C, D, A, X[15], 15)` (R147). -/
def execStep47 (s : State) : Host.Outcome State Fault Refusal :=
  .next (s.setWork (writeWork s.work .B (HH s.work.B s.work.C s.work.D s.work.A s.X[15] 15)))

end Sys2Proof.Machine
end

