-- ==== Sys2Proof/Machine/Outputs.lean ====
section
/-! DEFINITION. The engine's outputs as functions of the state (10_state.md R22): digest, digest_bus, digest_valid
(44_finalizer.md R180, R181) and cmd_ready (45_host_interface.md R190, R191). -/

namespace Sys2Proof.Machine

/-- `digest[0..15]`: at every moment the serialisation of CV (R180). -/
def digest (s : State) : List Byte := chainBytes s.cv

/-- `digest_bus[127:0]`, with `digest_bus[8n+7 : 8n] = digest[n]` (R180). -/
def digestBus (s : State) : BitVec 128 := s.cv.D ++ s.cv.C ++ s.cv.B ++ s.cv.A

/-- `digest_valid = done` (R181). -/
def digestValid (s : State) : Bool := s.done

/-- Whether `reset` is asserted at the port now. -/
def resetAsserted (s : State) : Bool := s.inputs.head?.any (·.reset)

/-- `cmd_ready`: no command is executing (R191) and reset is not asserted (R216, R217). DEDUCED (log 13). -/
def cmdReady (s : State) : Bool := s.seq == .idle && !resetAsserted s

end Sys2Proof.Machine
end

