-- ==== Sys2Proof/Machine/Fetch.lean ====
section
/-! DEFINITION. What the engine does next: it samples the port (45_host_interface.md R190, R191, 70_reset_and_hazards.md
R217) or goes on with the TRANSFORM in progress (10_state.md R20). -/

namespace Sys2Proof.Machine

/-- What the next step is, with the state it acts on. -/
inductive Fetched where
  /-- Hardware reset is asserted (R216, R217). -/
  | reset (s : State)
  /-- Nothing is presented: the engine is idle (R198, R213). -/
  | idle (s : State)
  /-- An instruction to run: an accepted command word, or the step the sequencer selects. -/
  | run (i : Instr) (s : State)
  /-- The four feed-forward additions (R152 line 4). -/
  | addBack (s : State)
  /-- The sequencer holds an index that selects no step (R54). -/
  | noStep (t : BitVec 6)
deriving DecidableEq, Repr

/-- With no reset asserted: an idle engine accepts the word presented (R191), a busy one goes on with its TRANSFORM and
leaves the port alone, the word waiting (R191). -/
def fetchNoReset (s : State) : Fetched :=
  match s.seq with
  | .round t =>
    match decode (.step t) with
    | .ok i => .run i (s.setSeq (nextSeq t))
    | .error _ => .noStep t
  | .addBack => .addBack s
  | .idle =>
    match s.inputs with
    | [] => .idle s
    | p :: rest =>
      if p.cmdValid then .run (decodeCmd p.cmd) (s.setInputs rest) else .idle (s.setInputs rest)

/-- Reset wins over everything: a presented word is not accepted, a running TRANSFORM is abandoned (R203, R217). -/
def fetch (s : State) : Fetched :=
  if resetAsserted s then .reset (s.setInputs s.inputs.tail) else fetchNoReset s

/-- The port with a command word presented. -/
def presentWord (w : BitVec 10) : PortSample := ⟨false, true, w⟩

/-- The port with nothing presented. -/
def presentNothing : PortSample := ⟨false, false, 0⟩

/-- The port with reset asserted and, beside it, whatever the host drives on the command lines. -/
def presentReset (cmdValid : Bool) (w : BitVec 10) : PortSample := ⟨true, cmdValid, w⟩

/-- Make a command word the next thing the engine accepts. -/
def loadCommand (s : State) (w : BitVec 10) : State :=
  (s.setInputs (presentWord w :: s.inputs)).setSeq .idle

/-- Make a step index the next thing the engine runs; a reset asserted at the port is put off behind an idle sample. -/
def loadStep (s : State) (t : BitVec 6) : State :=
  (s.setInputs (if resetAsserted s then presentNothing :: s.inputs else s.inputs)).setSeq (.round t)

end Sys2Proof.Machine
end

