-- ==== Sys2Proof/Machine/Step.lean ====
section
/-! DEFINITION. One step of the machine: one accepted command word (92_eei_decisions.md D1), or one moment of reset or
of idleness at the port, or one step of a TRANSFORM in progress (log 4). -/

namespace Sys2Proof.Machine

/-- The step function. -/
def step (s : State) : Host.Outcome State Fault Refusal :=
  match fetch s with
  | .reset s' => .next (hardwareReset s')
  | .idle s' => .next s'
  | .run i s' => exec i s'
  | .addBack s' => .next (addBack s')
  | .noStep t => .refused (.noSuchStep t)

/-- The state with the instruction whose table bits are `w` placed where `step` takes its next instruction from: a row
of up to 8 bits (a step index) in the sequencer, any other (a command word) at the head of the command stream (log 3). -/
def State.withFetchWord (s : State) (nbits w : Nat) : State :=
  if nbits ≤ 8 then loadStep s (BitVec.ofNat 6 w) else loadCommand s (BitVec.ofNat 10 w)

end Sys2Proof.Machine
end

