-- ==== Sys2Proof/Machine/Reference.lean ====
section
/-! DEFINITION. What the whole computes (44_finalizer.md R183): MD4 of a message as a fold of TRANSFORM over the blocks
of the padded message, with no engine, no buffer and no counter. -/

namespace Sys2Proof.Machine

/-- Block j of a byte sequence: the 64 bytes at 64j to 64j+63. -/
def blockAt (l : List Byte) (j : Nat) : Block := Vector.ofFn fun i : Fin 64 => l.getD (64 * j + i.val) 0#8

/-- TRANSFORM folded over the first n 64-byte blocks of a byte sequence, in order (R169, R183). -/
def foldBlocks (cv : Chain) (l : List Byte) (n : Nat) : Chain :=
  (List.range n).foldl (fun cv j => TRANSFORM cv (blockAt l j)) cv

/-- The padded message of R183: `m ++ PADSEQ(padLen(n mod 64), 8n mod 2^64)`. -/
def paddedMessage (m : List Byte) : List Byte :=
  m ++ PADSEQ (padLen (m.length % 64)) (BitVec.ofNat 64 (8 * m.length))

/-- The chaining words after the whole padded message. -/
def md4Chain (m : List Byte) : Chain :=
  foldBlocks Config.md4IV (paddedMessage m) ((paddedMessage m).length / 64)

/-- The digest of a message (R183): the sixteen bytes of `md4Chain`, serialised by R180. -/
def md4 (m : List Byte) : List Byte := chainBytes (md4Chain m)

end Sys2Proof.Machine
end

