-- ==== Sys2Proof/Machine/HostOps.lean ====
section
/-! DEFINITION. The host's side: runs of accepted command words (45_host_interface.md R191) and the pseudo-operations
ABSORB_SEQ, ABSORB_STR, READ_DIGEST and DIGEST (R193 to R196). -/

namespace Sys2Proof.Machine

/-- A run: a fold over the list of accepted words, each executed atomically and in order (R191). -/
def runWords : List (BitVec 10) → State → Host.Outcome State Fault Refusal
  | [], s => .next s
  | w :: ws, s =>
    match exec (decodeCmd w) s with
    | .next s' => runWords ws s'
    | .fault r => .fault r
    | .refused r => .refused r

/-- The canonical command words (30_encoding.md R47). -/
def wordNop : BitVec 10 := 0x000
def wordInit : BitVec 10 := 0x100
def wordAbsorb (b : Byte) : BitVec 10 := 0x200 + b.setWidth 10
def wordFinalize : BitVec 10 := 0x300

/-- `ABSORB_SEQ b0 ... b(n-1)`: n command words, none when n = 0 (R193). -/
def absorbSeq (bs : List Byte) : List (BitVec 10) := bs.map wordAbsorb

/-- `ABSORB_STR "text"`: the ASCII values of the characters 0x20 to 0x7E (R58, R193); no expansion for any other
character. -/
def absorbStr (text : List Char) : Option (List (BitVec 10)) :=
  if text.all fun c => 0x20 ≤ c.toNat && c.toNat ≤ 0x7E then
    some (absorbSeq (text.map fun c => BitVec.ofNat 8 c.toNat))
  else none

/-- `READ_DIGEST`: the host samples the sixteen bytes and the flag at a moment when no command is executing; it changes
no state (R194). -/
def readDigest (s : State) : Option (List Byte × Bool) :=
  if cmdReady s then some (digest s, digestValid s) else none

/-- The command words of `DIGEST input` for a present input (R195). -/
def digestWords (input : List Byte) : List (BitVec 10) := wordInit :: (absorbSeq input ++ [wordFinalize])

/-- What `DIGEST` answers: what READ_DIGEST sampled, or `fail InvalidArgument`, or `stopped`, when the outputs cannot be
sampled after the run because reset is asserted at the port. The spec gives no outcome there: DESIGN CHOICE (log 21). The
engine itself never stops on the way (R200). -/
inductive DigestResult where
  | sampled (bytes : List Byte) (valid : Bool) (s : State)
  | invalidArgument (s : State)
  | stopped
deriving DecidableEq, Repr

/-- `DIGEST input` (R195); for an absent input `fail InvalidArgument` with no command word issued (R196). It is meant for an
idle engine with no reset asserted; with reset asserted it answers `stopped` (log 21). -/
def digestOp (input : Option (List Byte)) (s : State) : DigestResult :=
  match input with
  | none => .invalidArgument s
  | some m =>
    match runWords (digestWords m) s with
    | .next t =>
      match readDigest t with
      | some (bytes, valid) => .sampled bytes valid t
      | none => .stopped
    | .fault _ => .stopped
    | .refused _ => .stopped

end Sys2Proof.Machine
end

