-- ==== Sys2Proof/Safety.lean ====
section
/-! DEFINITION. What claims are stated with: the invariant of the machine (10_state.md R17, R18, R20), the part of the
state that can matter (R23), a fresh context (R25), and the host's protocol (45_host_interface.md R197). -/

namespace Sys2Proof.Machine

/-- The sequencer never holds a step index from 48 to 63 (R20). -/
abbrev Sequencer.legal : Sequencer → Prop
  | .idle => True
  | .round t => t.toNat < 48
  | .addBack => True

/-- The invariant of the machine: the buffer's storage is in canonical form; `len = total mod 64` (R18); the bytes
buf[0] to buf[len-1] are valid (R17); the sequencer is legal (R20). -/
structure EngineInv (s : State) : Prop where
  buf_wf : Memory.wf s.buf
  len_eq : s.len.toNat = s.total.toNat % 64
  valid : ∀ i, i < s.len.toNat → (s.buf.read i).isSome
  seq_legal : s.seq.legal

/-- The five elements of the Digest Context agree, the buffer on its valid bytes only (R13, R17, R23): what is left
out (stale bytes, working registers, X, the sequencer, the model's epoch, the port) may differ. -/
structure SameContext (s t : State) : Prop where
  cv : s.cv = t.cv
  total : s.total = t.total
  len : s.len = t.len
  done : s.done = t.done
  bytes : ∀ i, i < s.len.toNat → ∃ b, s.buf.read i = some b ∧ t.buf.read i = some b

/-- A freshly created context (R25): what power-up, hardware reset and INIT leave. -/
structure Fresh (s : State) : Prop where
  cv : s.cv = Config.md4IV
  total : s.total = 0#64
  len : s.len = 0#6
  done : s.done = false

/-! ### The host's protocol -/

/-- The four kinds of command word. -/
inductive CmdKind where
  | nop | init | absorb | finalize
deriving DecidableEq, Repr

/-- The kind of a command word, from its `op` bits (30_encoding.md R47). -/
def cmdKind (w : BitVec 10) : CmdKind :=
  match (w.extractLsb' 8 2).toNat with
  | 0 => .nop
  | 1 => .init
  | 2 => .absorb
  | _ => .finalize

/-- ABSORB and FINALIZE are allowed only while `done = 0`; INIT and NOP always (R197, R221). -/
def allowedWhen (done : Bool) : CmdKind → Bool
  | .nop => true
  | .init => true
  | .absorb => !done
  | .finalize => !done

/-- `done` after a command of a kind (10_state.md R19). -/
def doneAfter (done : Bool) : CmdKind → Bool
  | .nop => done
  | .init => false
  | .absorb => done
  | .finalize => true

/-- A command stream commits no misuse, starting with `done` as given (R197, R221). -/
def noMisuse : Bool → List (BitVec 10) → Bool
  | _, [] => true
  | d, w :: ws => allowedWhen d (cmdKind w) && noMisuse (doneAfter d (cmdKind w)) ws

/-- `{ ABSORB b | NOP } FINALIZE { NOP }`, the part of a computation after its INIT (R197). -/
def IsBody (ws : List (BitVec 10)) : Prop :=
  ∃ body f tail, ws = body ++ f :: tail ∧ (∀ w ∈ body, cmdKind w = .absorb ∨ cmdKind w = .nop) ∧
    cmdKind f = .finalize ∧ ∀ w ∈ tail, cmdKind w = .nop

/-- `computation = INIT { ABSORB b | NOP } FINALIZE { NOP }` (R197). -/
def IsComputation (ws : List (BitVec 10)) : Prop :=
  ∃ i rest, ws = i :: rest ∧ cmdKind i = .init ∧ IsBody rest

/-- `stream = [ { ABSORB b | NOP } FINALIZE { NOP } ] { computation }` (R197). -/
def IsStream (ws : List (BitVec 10)) : Prop :=
  ∃ (first : List (BitVec 10)) (cs : List (List (BitVec 10))), ws = first ++ cs.flatten ∧ (first = [] ∨ IsBody first) ∧ ∀ c ∈ cs, IsComputation c

/-- The message bytes of a stream: the data of the ABSORBs since the last INIT, after `acc`. -/
def messageOf (acc : List Byte) : List (BitVec 10) → List Byte
  | [] => acc
  | w :: ws =>
    match cmdKind w with
    | .nop => messageOf acc ws
    | .init => messageOf [] ws
    | .absorb => messageOf (acc ++ [w.extractLsb' 0 8]) ws
    | .finalize => messageOf acc ws

/-- A step from here answers a next state. -/
def StepsOn (s : State) : Prop := ∃ t, step s = .next t

end Sys2Proof.Machine
end

