-- ==== Sys2Proof/Certificates/Slice0/Obligations.lean ====
section
/-! DEFINITION. The statements for the provers, from the numbered rules of spec/. Each docstring names its rules; where a
clause rests on a choice of the model, it names the log entry. -/

open Sys2Proof Sys2Proof.Machine

/-! ### Encoding -/

/-- R47: the opcode bits select the command, the data bits are its byte; every 10-bit value selects exactly one of the
four; the canonical encodings. -/
def Obligations.CommandWordsDecodeByOpcode : Prop :=
  (∀ w : BitVec 10,
    (w &&& 0x300#10 = 0x000#10 → decode (.cmd w) = .ok (.nop (w.extractLsb' 0 8))) ∧
    (w &&& 0x300#10 = 0x100#10 → decode (.cmd w) = .ok (.init (w.extractLsb' 0 8))) ∧
    (w &&& 0x300#10 = 0x200#10 → decode (.cmd w) = .ok (.absorb (w.extractLsb' 0 8))) ∧
    (w &&& 0x300#10 = 0x300#10 → decode (.cmd w) = .ok (.finalize (w.extractLsb' 0 8))) ∧
    (w &&& 0x300#10 = 0x000#10 ∨ w &&& 0x300#10 = 0x100#10 ∨ w &&& 0x300#10 = 0x200#10 ∨ w &&& 0x300#10 = 0x300#10)) ∧
  encode (.nop 0#8) = .cmd 0x000#10 ∧ encode (.init 0#8) = .cmd 0x100#10 ∧ encode (.finalize 0#8) = .cmd 0x300#10 ∧
  ∀ b : Byte, encode (.absorb b) = .cmd (0x200#10 + b.setWidth 10)

/-- Words written out bit by bit from the encodings of R47 and R48 decode to the instructions they stand for. The last two
clauses go through the byte container of `decodeTableWord`, which is the model's choice (log 1). -/
def Obligations.WrittenOutWordsDecode : Prop :=
  decode (.cmd 0b0010101011#10) = .ok (.nop 0xAB#8) ∧
  decode (.cmd 0b0100000000#10) = .ok (.init 0x00#8) ∧
  decode (.cmd 0b1001100001#10) = .ok (.absorb 0x61#8) ∧
  decode (.cmd 0b1111111111#10) = .ok (.finalize 0xFF#8) ∧
  decode (.step 0b000111#6) = .ok .step7 ∧
  decode (.step 0b010010#6) = .ok .step18 ∧
  decode (.step 0b101111#6) = .ok .step47 ∧
  decodeTableWord 16 0x263 = some (.absorb 0x63#8) ∧
  decodeTableWord 8 0x20 = some .step32

/-- Decoding the encoding of an instruction gives it back, every operand at every value, in its format's word and in the
model's byte layout of it (log 1). -/
def Obligations.DecodeOfEncodeGivesTheInstruction : Prop :=
  ∀ i : Instr, decode (encode i) = .ok i ∧ decodeBytes (encodeBytes i) = .ok i

/-- No two encodings decode to one instruction: an encoding that decodes is the encoding of what it decodes to. It holds
because the instruction keeps the data bits that NOP, INIT and FINALIZE ignore, which is the model's choice (log 14); in the
spec the 256 spellings of each are one command (R49, R53). -/
def Obligations.EveryEncodingHasOneMeaning : Prop :=
  ∀ (e : Encoded) (i : Instr), decode e = .ok i → encode i = e

/-- R53, R54: no command word is rejected; a step index is rejected exactly from 48 to 63, and by name. -/
def Obligations.OnlyStepIndexesFrom48AreRejected : Prop :=
  (∀ w : BitVec 10, ∃ i, decode (.cmd w) = .ok i) ∧
  (∀ t : BitVec 6, t.toNat < 48 → ∃ i, decode (.step t) = .ok i) ∧
  ∀ t : BitVec 6, 48 ≤ t.toNat → decode (.step t) = .error (.noSuchStep t)

/-- R50: the operands of a step as functions of the bits of its index, for a decoder that computes them: function,
registers, shift, word index and (through the function) the constant; and so (R82) each round reads every work word exactly
once. Both are inferences the spec draws from its tables. -/
def Obligations.StepOperandsFromIndexBits : Prop :=
  (∀ r, r < 3 → ∀ k : Fin 16, ∃! t : Fin 48, t.val / 16 = r ∧ (stepRow t).k = k) ∧
  ∀ t : Fin 48,
    let r := t.val / 16
    let i := t.val % 16
    let p := t.val % 4
    let row := stepRow t
    row.fn = (if r = 0 then .FF else if r = 1 then .GG else .HH) ∧
    (row.a, row.b, row.c, row.d) =
      (if p = 0 then (WReg.A, WReg.B, WReg.C, WReg.D) else if p = 1 then (.D, .A, .B, .C)
       else if p = 2 then (.C, .D, .A, .B) else (.B, .C, .D, .A)) ∧
    row.s = (([[3, 7, 11, 19], [3, 5, 9, 13], [3, 9, 11, 15]].getD r []).getD p 0) ∧
    row.k.val =
      (if r = 0 then i else if r = 1 then 4 * (i % 4) + i / 4
       else 8 * (i % 2) + 4 * (i / 2 % 2) + 2 * (i / 4 % 2) + i / 8) ∧
    ∀ a b c d x : Word, applyFn row.fn a b c d x row.s =
      ROTL32
        (ADD32 (ADD32 (ADD32 a (if r = 0 then F b c d else if r = 1 then G b c d else H b c d)) x)
          (if r = 0 then 0x00000000#32 else if r = 1 then 0x5A827999#32 else 0x6ED9EBA1#32))
        row.s

/-! ### Word primitives -/

/-- R61: ADD32 is the sum on integers modulo 2^32, with the rule's corner cases. R62: it is commutative and associative, 0 is
its identity, every word has an inverse; R62 is an inference the spec draws from R61. -/
def Obligations.AdditionIsModulo32Bits : Prop :=
  (∀ a b : Word, ADD32 a b = ADD32 b a) ∧
  (∀ a b c : Word, ADD32 (ADD32 a b) c = ADD32 a (ADD32 b c)) ∧
  (∀ a : Word, ∃ b, ADD32 a b = 0#32) ∧
  (∀ a b : Word, (ADD32 a b).toNat = (a.toNat + b.toNat) % 2 ^ 32) ∧
  (∀ a : Word, ADD32 a 0#32 = a) ∧
  ADD32 0xFFFFFFFF#32 1#32 = 0#32 ∧ ADD32 0xFFFFFFFF#32 0xFFFFFFFF#32 = 0xFFFFFFFE#32 ∧
  ADD32 0x80000000#32 0x80000000#32 = 0#32 ∧ ADD32 0x7FFFFFFF#32 1#32 = 0x80000000#32 ∧
  ADD32 0x67452301#32 0xEFCDAB89#32 = 0x5712CE8A#32

/-- R63, R64: ROTL32 is the or of the two logical shifts, and moves bit j to bit (j + s) mod 32; corner cases and the
check against an arithmetic right shift. Outside 1 to 31 nothing is said. -/
def Obligations.RotationMovesEveryBit : Prop :=
  (∀ (v : Word) (s : Nat), 1 ≤ s → s ≤ 31 →
    ROTL32 v s = (v <<< s) ||| (v >>> (32 - s)) ∧
    (∀ j, j < 32 → (ROTL32 v s).getLsbD ((j + s) % 32) = v.getLsbD j) ∧
    ROTL32 0#32 s = 0#32 ∧ ROTL32 0xFFFFFFFF#32 s = 0xFFFFFFFF#32) ∧
  ROTL32 0x80000000#32 1 = 1#32 ∧ ROTL32 1#32 31 = 0x80000000#32 ∧
  ROTL32 0x12345678#32 3 = 0x91A2B3C0#32 ∧ ROTL32 0x80000001#32 3 = 0x0000000C#32

/-- R65 to R68: the bitwise operations bit by bit, and NOT as the difference from all ones. -/
def Obligations.BitwiseLogicBitByBit : Prop :=
  (∀ (a b : Word) (j : Nat), j < 32 →
    (AND32 a b).getLsbD j = (a.getLsbD j && b.getLsbD j) ∧
    (OR32 a b).getLsbD j = (a.getLsbD j || b.getLsbD j) ∧
    (XOR32 a b).getLsbD j = (a.getLsbD j != b.getLsbD j) ∧
    (NOT32 a).getLsbD j = !a.getLsbD j) ∧
  (∀ a b c : Word, XOR32 (XOR32 a b) c = XOR32 a (XOR32 b c) ∧ XOR32 a b = XOR32 b a) ∧
  (∀ a : Word, NOT32 a = 0xFFFFFFFF#32 - a) ∧
  AND32 0xF0F0F0F0#32 0xCCCCCCCC#32 = 0xC0C0C0C0#32 ∧ OR32 0xF0F0F0F0#32 0xCCCCCCCC#32 = 0xFCFCFCFC#32 ∧
  XOR32 0xF0F0F0F0#32 0xCCCCCCCC#32 = 0x3C3C3C3C#32 ∧ NOT32 0xF0F0F0F0#32 = 0x0F0F0F0F#32

/-- R73 to R75: F selects, G is the majority and H the parity of the three bits, at every bit position; with the rules'
expressions, corner cases and examples. The selector, the majority and the symmetry of G are inferences the spec draws from
the expressions. -/
def Obligations.AuxiliaryFunctionsBitByBit : Prop :=
  (∀ (b c d : Word) (j : Nat), j < 32 →
    (F b c d).getLsbD j = (if b.getLsbD j then c.getLsbD j else d.getLsbD j) ∧
    (G b c d).getLsbD j = decide (2 ≤ (b.getLsbD j).toNat + (c.getLsbD j).toNat + (d.getLsbD j).toNat) ∧
    (H b c d).getLsbD j = decide (((b.getLsbD j).toNat + (c.getLsbD j).toNat + (d.getLsbD j).toNat) % 2 = 1)) ∧
  (∀ b c d : Word,
    F b c d = OR32 (AND32 b c) (AND32 (NOT32 b) d) ∧
    G b c d = OR32 (AND32 b (OR32 c d)) (AND32 c d) ∧
    H b c d = XOR32 (XOR32 b c) d ∧
    F 0xFFFFFFFF#32 c d = c ∧ F 0#32 c d = d ∧ F b c c = c ∧
    G b b d = b ∧ G 0#32 c d = AND32 c d ∧ G 0xFFFFFFFF#32 c d = OR32 c d ∧ G b c d = G c b d ∧ G b c d = G b d c ∧
    H b b d = d ∧ H 0#32 0#32 d = d) ∧
  H 0xFFFFFFFF#32 0xFFFFFFFF#32 0xFFFFFFFF#32 = 0xFFFFFFFF#32 ∧
  F 0xEFCDAB89#32 0x98BADCFE#32 0x10325476#32 = 0x98BADCFE#32 ∧
  G 0xF0F0F0F0#32 0xCCCCCCCC#32 0xAAAAAAAA#32 = 0xE8E8E8E8#32 ∧
  H 0xEFCDAB89#32 0x98BADCFE#32 0x10325476#32 = 0x67452301#32

/-- R76 to R78: FF, GG and HH rotate the sum of the four (or three) terms, taken on integers and cut to 32 bits once,
which is the same as wrapping after every addition; with the rules' examples. -/
def Obligations.StepFunctionsRotateTheWrappedSum : Prop :=
  (∀ (a b c d x : Word) (s : Nat), 1 ≤ s → s ≤ 31 →
    FF a b c d x s = ROTL32 (ADD32 (ADD32 a (F b c d)) x) s ∧
    GG a b c d x s = ROTL32 (ADD32 (ADD32 (ADD32 a (G b c d)) x) 0x5A827999#32) s ∧
    HH a b c d x s = ROTL32 (ADD32 (ADD32 (ADD32 a (H b c d)) x) 0x6ED9EBA1#32) s ∧
    FF a b c d x s = ROTL32 (BitVec.ofNat 32 (a.toNat + (F b c d).toNat + x.toNat)) s ∧
    GG a b c d x s = ROTL32 (BitVec.ofNat 32 (a.toNat + (G b c d).toNat + x.toNat + 0x5A827999)) s ∧
    HH a b c d x s = ROTL32 (BitVec.ofNat 32 (a.toNat + (H b c d).toNat + x.toNat + 0x6ED9EBA1)) s) ∧
  FF 0x67452301#32 0xEFCDAB89#32 0x98BADCFE#32 0x10325476#32 0x80636261#32 3 = 0x031B1304#32 ∧
  GG 0xA299A540#32 0xDA717395#32 0x24BAADCB#32 0x04E19293#32 0x80636261#32 3 = 0x1389A66C#32 ∧
  HH 0x7296594C#32 0x8E531B8F#32 0x3DD42422#32 0x4E7E1748#32 0x80636261#32 3 = 0xFE66819A#32

/-! ### The 48 steps -/

/-- R100 to R111: each step writes the one working register its rule names, with the value its pseudocode gives, and
nothing else. -/
def Obligations.Steps0To11WriteTheirRegister : Prop :=
  ∀ s : State,
    exec .step0 s = .next (s.setWork { s.work with A := FF s.work.A s.work.B s.work.C s.work.D s.X[0] 3 }) ∧
    exec .step1 s = .next (s.setWork { s.work with D := FF s.work.D s.work.A s.work.B s.work.C s.X[1] 7 }) ∧
    exec .step2 s = .next (s.setWork { s.work with C := FF s.work.C s.work.D s.work.A s.work.B s.X[2] 11 }) ∧
    exec .step3 s = .next (s.setWork { s.work with B := FF s.work.B s.work.C s.work.D s.work.A s.X[3] 19 }) ∧
    exec .step4 s = .next (s.setWork { s.work with A := FF s.work.A s.work.B s.work.C s.work.D s.X[4] 3 }) ∧
    exec .step5 s = .next (s.setWork { s.work with D := FF s.work.D s.work.A s.work.B s.work.C s.X[5] 7 }) ∧
    exec .step6 s = .next (s.setWork { s.work with C := FF s.work.C s.work.D s.work.A s.work.B s.X[6] 11 }) ∧
    exec .step7 s = .next (s.setWork { s.work with B := FF s.work.B s.work.C s.work.D s.work.A s.X[7] 19 }) ∧
    exec .step8 s = .next (s.setWork { s.work with A := FF s.work.A s.work.B s.work.C s.work.D s.X[8] 3 }) ∧
    exec .step9 s = .next (s.setWork { s.work with D := FF s.work.D s.work.A s.work.B s.work.C s.X[9] 7 }) ∧
    exec .step10 s = .next (s.setWork { s.work with C := FF s.work.C s.work.D s.work.A s.work.B s.X[10] 11 }) ∧
    exec .step11 s = .next (s.setWork { s.work with B := FF s.work.B s.work.C s.work.D s.work.A s.X[11] 19 })

/-- R112 to R123: each step writes the one working register its rule names, with the value its pseudocode gives, and
nothing else. -/
def Obligations.Steps12To23WriteTheirRegister : Prop :=
  ∀ s : State,
    exec .step12 s = .next (s.setWork { s.work with A := FF s.work.A s.work.B s.work.C s.work.D s.X[12] 3 }) ∧
    exec .step13 s = .next (s.setWork { s.work with D := FF s.work.D s.work.A s.work.B s.work.C s.X[13] 7 }) ∧
    exec .step14 s = .next (s.setWork { s.work with C := FF s.work.C s.work.D s.work.A s.work.B s.X[14] 11 }) ∧
    exec .step15 s = .next (s.setWork { s.work with B := FF s.work.B s.work.C s.work.D s.work.A s.X[15] 19 }) ∧
    exec .step16 s = .next (s.setWork { s.work with A := GG s.work.A s.work.B s.work.C s.work.D s.X[0] 3 }) ∧
    exec .step17 s = .next (s.setWork { s.work with D := GG s.work.D s.work.A s.work.B s.work.C s.X[4] 5 }) ∧
    exec .step18 s = .next (s.setWork { s.work with C := GG s.work.C s.work.D s.work.A s.work.B s.X[8] 9 }) ∧
    exec .step19 s = .next (s.setWork { s.work with B := GG s.work.B s.work.C s.work.D s.work.A s.X[12] 13 }) ∧
    exec .step20 s = .next (s.setWork { s.work with A := GG s.work.A s.work.B s.work.C s.work.D s.X[1] 3 }) ∧
    exec .step21 s = .next (s.setWork { s.work with D := GG s.work.D s.work.A s.work.B s.work.C s.X[5] 5 }) ∧
    exec .step22 s = .next (s.setWork { s.work with C := GG s.work.C s.work.D s.work.A s.work.B s.X[9] 9 }) ∧
    exec .step23 s = .next (s.setWork { s.work with B := GG s.work.B s.work.C s.work.D s.work.A s.X[13] 13 })

/-- R124 to R135: each step writes the one working register its rule names, with the value its pseudocode gives, and
nothing else. -/
def Obligations.Steps24To35WriteTheirRegister : Prop :=
  ∀ s : State,
    exec .step24 s = .next (s.setWork { s.work with A := GG s.work.A s.work.B s.work.C s.work.D s.X[2] 3 }) ∧
    exec .step25 s = .next (s.setWork { s.work with D := GG s.work.D s.work.A s.work.B s.work.C s.X[6] 5 }) ∧
    exec .step26 s = .next (s.setWork { s.work with C := GG s.work.C s.work.D s.work.A s.work.B s.X[10] 9 }) ∧
    exec .step27 s = .next (s.setWork { s.work with B := GG s.work.B s.work.C s.work.D s.work.A s.X[14] 13 }) ∧
    exec .step28 s = .next (s.setWork { s.work with A := GG s.work.A s.work.B s.work.C s.work.D s.X[3] 3 }) ∧
    exec .step29 s = .next (s.setWork { s.work with D := GG s.work.D s.work.A s.work.B s.work.C s.X[7] 5 }) ∧
    exec .step30 s = .next (s.setWork { s.work with C := GG s.work.C s.work.D s.work.A s.work.B s.X[11] 9 }) ∧
    exec .step31 s = .next (s.setWork { s.work with B := GG s.work.B s.work.C s.work.D s.work.A s.X[15] 13 }) ∧
    exec .step32 s = .next (s.setWork { s.work with A := HH s.work.A s.work.B s.work.C s.work.D s.X[0] 3 }) ∧
    exec .step33 s = .next (s.setWork { s.work with D := HH s.work.D s.work.A s.work.B s.work.C s.X[8] 9 }) ∧
    exec .step34 s = .next (s.setWork { s.work with C := HH s.work.C s.work.D s.work.A s.work.B s.X[4] 11 }) ∧
    exec .step35 s = .next (s.setWork { s.work with B := HH s.work.B s.work.C s.work.D s.work.A s.X[12] 15 })

/-- R136 to R147: each step writes the one working register its rule names, with the value its pseudocode gives, and
nothing else. -/
def Obligations.Steps36To47WriteTheirRegister : Prop :=
  ∀ s : State,
    exec .step36 s = .next (s.setWork { s.work with A := HH s.work.A s.work.B s.work.C s.work.D s.X[2] 3 }) ∧
    exec .step37 s = .next (s.setWork { s.work with D := HH s.work.D s.work.A s.work.B s.work.C s.X[10] 9 }) ∧
    exec .step38 s = .next (s.setWork { s.work with C := HH s.work.C s.work.D s.work.A s.work.B s.X[6] 11 }) ∧
    exec .step39 s = .next (s.setWork { s.work with B := HH s.work.B s.work.C s.work.D s.work.A s.X[14] 15 }) ∧
    exec .step40 s = .next (s.setWork { s.work with A := HH s.work.A s.work.B s.work.C s.work.D s.X[1] 3 }) ∧
    exec .step41 s = .next (s.setWork { s.work with D := HH s.work.D s.work.A s.work.B s.work.C s.X[9] 9 }) ∧
    exec .step42 s = .next (s.setWork { s.work with C := HH s.work.C s.work.D s.work.A s.work.B s.X[5] 11 }) ∧
    exec .step43 s = .next (s.setWork { s.work with B := HH s.work.B s.work.C s.work.D s.work.A s.X[13] 15 }) ∧
    exec .step44 s = .next (s.setWork { s.work with A := HH s.work.A s.work.B s.work.C s.work.D s.X[3] 3 }) ∧
    exec .step45 s = .next (s.setWork { s.work with D := HH s.work.D s.work.A s.work.B s.work.C s.X[11] 9 }) ∧
    exec .step46 s = .next (s.setWork { s.work with C := HH s.work.C s.work.D s.work.A s.work.B s.X[7] 11 }) ∧
    exec .step47 s = .next (s.setWork { s.work with B := HH s.work.B s.work.C s.work.D s.work.A s.X[15] 15 })

/-- R84, R48: the 6-bit value t selects step t, and running it replaces the working registers by STEP(t, ., X), the
function that row t of the table describes; nothing else of the state changes. -/
def Obligations.EveryStepIsItsTableRow : Prop :=
  ∀ (t : Fin 48) (s : State), ∃ i, decode (.step (BitVec.ofNat 6 t.val)) = .ok i ∧
    exec i s = .next (s.setWork (STEP t s.work s.X))

/-- The frame of the 48 steps (R80, R84): the destination of step t is A, D, C, B at pattern position 0, 1, 2, 3; the
other three working registers keep their values; X, CV, total, every byte of buf, len and done are unchanged; so are
the sequencer, the port and the model's epoch. -/
def Obligations.StepsWriteOnlyTheDestination : Prop :=
  ∀ (t : Fin 48) (s : State) (i : Instr), decode (.step (BitVec.ofNat 6 t.val)) = .ok i →
    ∃ u, exec i s = .next u ∧
      (t.val % 4 ≠ 0 → u.work.A = s.work.A) ∧ (t.val % 4 ≠ 1 → u.work.D = s.work.D) ∧
      (t.val % 4 ≠ 2 → u.work.C = s.work.C) ∧ (t.val % 4 ≠ 3 → u.work.B = s.work.B) ∧
      u.X = s.X ∧ u.cv = s.cv ∧ u.total = s.total ∧ (∀ a, u.buf.read a = s.buf.read a) ∧ u.len = s.len ∧
      u.done = s.done ∧ u.seq = s.seq ∧ u.inputs = s.inputs ∧ u.epoch = s.epoch

/-! ### DECODE and TRANSFORM -/

/-- R150: word j is its four bytes, zero-extended and summed on integers, the low-order byte first; the engine decodes
the whole block buffer; with the rule's examples. -/
def Obligations.DecodeIsLittleEndian : Prop :=
  (∀ (block : Block) (j : Fin 16),
    ((DECODE block)[j]).toNat =
      block[4 * j.val].toNat + 2 ^ 8 * block[4 * j.val + 1].toNat + 2 ^ 16 * block[4 * j.val + 2].toNat
        + 2 ^ 24 * block[4 * j.val + 3].toNat) ∧
  (∀ s : State, (beginTransform s).X = DECODE (bufBlock s) ∧ ∀ i : Fin 64, (bufBlock s)[i] = bufByte s i.val) ∧
  (∀ block : Block, block[0] = 0x61#8 → block[1] = 0x62#8 → block[2] = 0x63#8 → block[3] = 0x80#8 →
    (DECODE block)[0] = 0x80636261#32) ∧
  ∀ block : Block, (∀ i : Fin 64, block[i] = BitVec.ofNat 8 i.val) →
    (DECODE block)[0] = 0x03020100#32 ∧ (DECODE block)[1] = 0x07060504#32 ∧ (DECODE block)[15] = 0x3F3E3D3C#32

/-- R151: DECODE is a bijection, and its inverse puts bits [8i+7 : 8i] of X[j] at byte 4j + i. -/
def Obligations.DecodeIsABijection : Prop :=
  Function.Bijective DECODE ∧
  ∀ (block : Block) (j : Fin 16) (i : Fin 4),
    block[4 * j.val + i.val] = ((DECODE block)[j]).extractLsb' (8 * i.val) 8

/-- R156: the five values of TRANSFORM, and the serialisation of the last. -/
def Obligations.TransformTestVectors : Prop :=
  TRANSFORM Config.md4IV (Vector.replicate 64 0x00#8) = ⟨0x015155EF#32, 0x2E5F67AB#32, 0x3681C98D#32, 0x7447AB15#32⟩ ∧
  TRANSFORM Config.md4IV (Vector.replicate 64 0xFF#8) = ⟨0xB05A96AB#32, 0xC389B094#32, 0x0159CE0F#32, 0xB49638ED#32⟩ ∧
  TRANSFORM ⟨0#32, 0#32, 0#32, 0#32⟩ (Vector.replicate 64 0x00#8) =
    ⟨0x33C84836#32, 0xC19152D1#32, 0xE762D9DF#32, 0xA20027BD#32⟩ ∧
  TRANSFORM Config.md4IV (Vector.ofFn fun i : Fin 64 => BitVec.ofNat 8 i.val) =
    ⟨0x4ECABFD4#32, 0xA26EF3A6#32, 0xC90C1563#32, 0xDB599A46#32⟩ ∧
  TRANSFORM Config.md4IV (blockAt [0x80#8] 0) = ⟨0xE0CFD631#32, 0x31E96AD1#32, 0xD7593CB7#32, 0xC089C0E0#32⟩ ∧
  chainBytes ⟨0xE0CFD631#32, 0x31E96AD1#32, 0xD7593CB7#32, 0xC089C0E0#32⟩ =
    [0x31#8, 0xd6#8, 0xcf#8, 0xe0#8, 0xd1#8, 0x6a#8, 0xe9#8, 0x31#8, 0xb7#8, 0x3c#8, 0x59#8, 0xd7#8, 0xe0#8, 0xc0#8,
     0x89#8, 0xc0#8]

/-- R153: TRANSFORM on the engine's state, with its working registers and X, gives CV the pure function of the old CV and
of all 64 buffer bytes, and neither reads nor writes total, len and done; nor does it write buf. ABSORB performs it when it
has just stored the 64th byte of a block. -/
def Obligations.TransformOnTheStateIsThePureFunction : Prop :=
  (∀ (b : Byte) (s : State), s.len.toNat = 63 →
    exec (.absorb b) s = .next ((runTransform (bufWrite (s.setTotal (s.total + 1#64)) b)).setLen 0#6)) ∧
  ∀ s : State, (runTransform s).cv = TRANSFORM s.cv (bufBlock s) ∧
    (runTransform s).total = s.total ∧ (runTransform s).buf = s.buf ∧ (runTransform s).len = s.len ∧
    (runTransform s).done = s.done ∧
    ∀ (x : BitVec 64) (l : BitVec 6) (d : Bool),
      runTransform (((s.setTotal x).setLen l).setDone d) = (((runTransform s).setTotal x).setLen l).setDone d

/-- R152, R20 on the machine's own steps: from lines 1 and 2 of TRANSFORM, with no reset at the port, 49 machine steps
(STEP 0 to STEP 47 in index order, then the four additions) give exactly the state that TRANSFORM inside a command
gives at once; before that cmd_ready is 0 and no presented word is taken. The single-step view is the model's (log 4). -/
def Obligations.FortyNineStepsMakeOneTransform : Prop :=
  ∀ s : State, resetAsserted s = false →
    Host.Core.run Sys2Proof.core 49 (beginTransform s) = .next (runTransform s) ∧
    ∀ n, n < 49 → ∃ u : State, Host.Core.run Sys2Proof.core n (beginTransform s) = .next u ∧
      cmdReady u = false ∧ u.inputs = s.inputs ∧ u.seq = (if n < 48 then .round (BitVec.ofNat 6 n) else .addBack)

/-! ### The commands -/

/-- R160: NOP leaves every state element and output as it is, whatever its data bits. -/
def Obligations.NopKeepsEverything : Prop :=
  ∀ (d : Byte) (s : State), exec (.nop d) s = .next s

/-- R161: INIT from any state, whatever its data bits: CV = MD4_IV, total = 0, len = 0, done = 0; two INITs are one; INIT
directly after hardware reset changes nothing; the digest output is then the serialisation of MD4_IV with
digest_valid = 0. -/
def Obligations.InitResetsTheContext : Prop :=
  (∀ (d : Byte) (s : State), ∃ t, exec (.init d) s = .next t ∧
    t.cv = ⟨0x67452301#32, 0xEFCDAB89#32, 0x98BADCFE#32, 0x10325476#32⟩ ∧ t.total = 0#64 ∧ t.len = 0#6 ∧ t.done = false ∧
    (∀ d', exec (.init d') t = .next t) ∧
    digestValid t = false ∧
    digest t = [0x01#8, 0x23#8, 0x45#8, 0x67#8, 0x89#8, 0xAB#8, 0xCD#8, 0xEF#8, 0xFE#8, 0xDC#8, 0xBA#8, 0x98#8, 0x76#8,
      0x54#8, 0x32#8, 0x10#8]) ∧
  ∀ (d : Byte) (s : State), exec (.init d) (hardwareReset s) = .next (hardwareReset s) ∧
    exec (.init d) State.reset = .next State.reset

/-- The frame of INIT: every byte of the storage reads as before, and the working registers, X, the sequencer, the port and
the epoch are unchanged. That the storage is kept (log 7), and that the working registers and X are (log 20), is the model's
choice. -/
def Obligations.InitKeepsTheStorage : Prop :=
  ∀ (d : Byte) (s : State), ∃ t, exec (.init d) s = .next t ∧ (∀ a, t.buf.read a = s.buf.read a) ∧
    t.work = s.work ∧ t.X = s.X ∧ t.seq = s.seq ∧ t.inputs = s.inputs ∧ t.epoch = s.epoch

/-- R163: ABSORB b from any state. total counts up modulo 2^64; the byte goes to index len; with len = 63 CV becomes
TRANSFORM of the old CV and the 64 buffer bytes just completed and len becomes 0, otherwise CV stays and len advances;
done is not changed. -/
def Obligations.AbsorbStoresAByteAndTransformsFullBlocks : Prop :=
  ∀ (b : Byte) (s : State), ∃ t, exec (.absorb b) s = .next t ∧
    t.total.toNat = (s.total.toNat + 1) % 2 ^ 64 ∧
    t.buf.read s.len.toNat = some b ∧
    t.done = s.done ∧
    (s.len.toNat = 63 → t.len = 0#6 ∧
      t.cv = TRANSFORM s.cv (Vector.ofFn fun i : Fin 64 => if i.val = 63 then b else bufByte s i.val)) ∧
    (s.len.toNat ≠ 63 → t.len.toNat = s.len.toNat + 1 ∧ t.cv = s.cv)

/-- The frame of ABSORB: every byte of the storage but the one at index len (the address R163 stores to) reads as
before; done and the port are unchanged; the transient elements are unchanged unless a TRANSFORM ran. That the bytes which
go stale keep their values (log 19), and that the transient elements do (log 20), is the model's choice. -/
def Obligations.AbsorbChangesOneByte : Prop :=
  ∀ (b : Byte) (s : State), ∃ t, exec (.absorb b) s = .next t ∧
    (∀ a, a ≠ s.len.toNat → t.buf.read a = s.buf.read a) ∧ t.done = s.done ∧ t.inputs = s.inputs ∧
    (s.len.toNat ≠ 63 → t.cv = s.cv ∧ t.work = s.work ∧ t.X = s.X ∧ t.seq = s.seq ∧ t.epoch = s.epoch)

/-- R165: total wraps from 2^64 - 1 to 0 with no other effect: from two states that differ in total alone, ABSORB gives
states that differ in total alone, and len stays total mod 64 across the wrap. -/
def Obligations.CounterWrapsSilently : Prop :=
  ∀ (b : Byte) (s : State), s.total = 0xFFFFFFFFFFFFFFFF#64 →
    ∃ t, exec (.absorb b) s = .next t ∧ t.total = 0#64 ∧
      (∀ x, exec (.absorb b) (s.setTotal x) = .next (t.setTotal (x + 1#64))) ∧
      (s.len.toNat = s.total.toNat % 64 → t.len.toNat = t.total.toNat % 64)

/-- R173: FINALIZE computes idx, padLen and bits from the value total has when it starts, absorbs PADSEQ(padLen, bits) byte
by byte exactly as ABSORB commands would, and sets done. From any state. -/
def Obligations.FinalizeAbsorbsThePadding : Prop :=
  ∀ (d : Byte) (s : State),
    let idx := s.total.toNat % 64
    let pad := if idx < 56 then 56 - idx else 120 - idx
    let bits := BitVec.ofNat 64 (s.total.toNat * 8)
    ∃ u, runWords (absorbSeq (PADSEQ pad bits)) s = .next u ∧ exec (.finalize d) s = .next (u.setDone true)

/-- The frame of FINALIZE: the bytes it stores go to the indexes len, len + 1, ... modulo 64, padLen + 8 of them; every
other byte of the storage reads as before; the port is unchanged. That the bytes which go stale keep their values is the
model's choice (log 19). -/
def Obligations.FinalizeStoresOnlyThePadding : Prop :=
  ∀ (d : Byte) (s : State), ∃ t, exec (.finalize d) s = .next t ∧ t.inputs = s.inputs ∧
    ∀ a, (∀ k, k < padLen (s.total.toNat % 64) + 8 → a ≠ (s.len.toNat + k) % 64) → t.buf.read a = s.buf.read a

/-- R174: padLen by the two cases; it lies between 1 and 64 and (idx + padLen) mod 64 = 56 always. -/
def Obligations.PadLengthRule : Prop :=
  (∀ idx, idx < 64 →
    (idx < 56 → padLen idx = 56 - idx) ∧ (56 ≤ idx → padLen idx = 120 - idx) ∧
    1 ≤ padLen idx ∧ padLen idx ≤ 64 ∧ (idx + padLen idx) % 64 = 56) ∧
  padLen 0 = 56 ∧ padLen 55 = 1 ∧ padLen 56 = 64 ∧ padLen 63 = 57

/-- R175: the bit count is total * 8 modulo 2^64, that is bits 60 to 0 of total above three zeros. -/
def Obligations.BitCountRule : Prop :=
  ∀ total : BitVec 64,
    (bitCount total).toNat = (total.toNat * 8) % 2 ^ 64 ∧ bitCount total = total.extractLsb' 0 61 ++ 0b000#3

/-- R176: PADSEQ has padLen + 8 bytes: 0x80, padLen - 1 zeros, and the bit count low-order byte first. -/
def Obligations.PaddingSequenceRule : Prop :=
  ∀ (n : Nat) (bits : BitVec 64), 1 ≤ n →
    (PADSEQ n bits).length = n + 8 ∧ (PADSEQ n bits)[0]? = some 0x80#8 ∧
    (∀ i, 1 ≤ i → i ≤ n - 1 → (PADSEQ n bits)[i]? = some 0x00#8) ∧
    ∀ i, i ≤ 7 → (PADSEQ n bits)[n + i]? = some (bits.extractLsb' (8 * i) 8)

/-- R177: FINALIZE from any state that meets the invariant. One TRANSFORM when idx <= 55, on the pending bytes followed by
the whole padding; two when idx >= 56, on the pending bytes, 0x80 and 63 - idx zeros, and then on 56 zeros and the
suffix. Afterwards len = 0, total has grown by padLen + 8 and is a multiple of 64, done = 1. The count of TRANSFORMs is
read off the model's epoch (log 5). -/
def Obligations.FinalizeEndState : Prop :=
  ∀ (d : Byte) (s : State), EngineInv s →
    let idx := s.total.toNat % 64
    let pending := (List.range idx).map (bufByte s)
    let suffix := countBytes (bitCount s.total)
    ∃ t, exec (.finalize d) s = .next t ∧ t.len = 0#6 ∧ t.done = true ∧
      t.total.toNat = (s.total.toNat + padLen idx + 8) % 2 ^ 64 ∧ t.total.toNat % 64 = 0 ∧
      (idx ≤ 55 → t.epoch = s.epoch + 1 ∧
        t.cv = TRANSFORM s.cv (blockAt (pending ++ 0x80#8 :: (List.replicate (55 - idx) 0x00#8 ++ suffix)) 0)) ∧
      (56 ≤ idx → t.epoch = s.epoch + 2 ∧
        t.cv = TRANSFORM (TRANSFORM s.cv (blockAt (pending ++ 0x80#8 :: List.replicate (63 - idx) 0x00#8) 0))
          (blockAt (List.replicate 56 0x00#8 ++ suffix) 0))

/-- R182, the case total = 2^61: the top bits of the bit count are lost, and from CV = MD4_IV, len = 0, done = 0,
total = 2^61 FINALIZE shows the digest of the empty message. -/
def Obligations.BitCountOverflowLosesTheTopBits : Prop :=
  (∀ total : BitVec 64, 2 ^ 61 ≤ total.toNat → (bitCount total).toNat = 8 * (total.toNat % 2 ^ 61)) ∧
  ∀ (d : Byte) (s : State), s.cv = Config.md4IV → s.len = 0#6 → s.done = false → s.total = 0x2000000000000000#64 →
    bitCount s.total = 0#64 ∧ ∃ t, exec (.finalize d) s = .next t ∧
      digest t = [0x31#8, 0xd6#8, 0xcf#8, 0xe0#8, 0xd1#8, 0x6a#8, 0xe9#8, 0x31#8, 0xb7#8, 0x3c#8, 0x59#8, 0xd7#8, 0xe0#8,
        0xc0#8, 0x89#8, 0xc0#8]

/-- R49: ABSORB's operand is data[7:0] as it stands; the data bits of NOP, INIT and FINALIZE are ignored, and every spelling
executes as the same command (R53). -/
def Obligations.IgnoredDataBitsDoNotMatter : Prop :=
  (∀ w : BitVec 10, w.extractLsb' 8 2 = 0b10#2 → ∃ b : Byte, decodeCmd w = .absorb b ∧ b.toNat = w.toNat % 256) ∧
  ∀ (w v : BitVec 10) (s : State), w.extractLsb' 8 2 = v.extractLsb' 8 2 → w.extractLsb' 8 2 ≠ 0b10#2 →
    exec (decodeCmd w) s = exec (decodeCmd v) s

/-- R19: done is set by FINALIZE, cleared by INIT and by hardware reset, written by no other command; no effect on CV,
total, buf or len depends on it; it drives digest_valid; it is 0 after reset. So misuse is executed by the ordinary
rules (R206). -/
def Obligations.DoneIsWrittenByThreeAndReadByNone : Prop :=
  (∀ (w : BitVec 10) (s : State) (e : Bool), ∃ t u,
    exec (decodeCmd w) s = .next t ∧ exec (decodeCmd w) (s.setDone e) = .next u ∧
    t.done = doneAfter s.done (cmdKind w) ∧ u.done = doneAfter e (cmdKind w) ∧
    t.cv = u.cv ∧ t.total = u.total ∧ t.buf = u.buf ∧ t.len = u.len) ∧
  (∀ s, (hardwareReset s).done = false) ∧ (∀ s, digestValid s = s.done) ∧ State.reset.done = false

/-- The writers of the chaining words, over every instruction (R14): CV changes only by INIT (to MD4_IV), by an ABSORB that
finds len = 63, and by FINALIZE. -/
def Obligations.OnlyThreeCommandsWriteTheChainingWords : Prop :=
  ∀ (i : Instr) (s t : State), exec i s = .next t → t.cv ≠ s.cv →
    (∃ d, i = .init d ∧ t.cv = Config.md4IV) ∨ (∃ b, i = .absorb b ∧ s.len.toNat = 63) ∨ ∃ d, i = .finalize d

/-- The writers of the byte counter, over every instruction (R16): INIT zeroes it, ABSORB adds one, FINALIZE adds one for
each byte of padding and suffix, nothing else changes it. -/
def Obligations.TheCounterCountsAbsorbedBytes : Prop :=
  ∀ (i : Instr) (s t : State), exec i s = .next t →
    match i with
    | .init _ => t.total = 0#64
    | .absorb _ => t.total.toNat = (s.total.toNat + 1) % 2 ^ 64
    | .finalize _ => t.total.toNat = (s.total.toNat + padLen (s.total.toNat % 64) + 8) % 2 ^ 64
    | _ => t.total = s.total

/-! ### The outputs -/

/-- R180: digest[4i + j] = CV[i][8j+7 : 8j], always sixteen bytes; the bus carries digest[n] in bits [8n+7 : 8n]; the
rule's example. -/
def Obligations.DigestSerialisesTheChainingWords : Prop :=
  (∀ s : State, (digest s).length = 16 ∧
    (∀ i j : Fin 4, (digest s)[4 * i.val + j.val]? =
      some (([s.cv.A, s.cv.B, s.cv.C, s.cv.D].getD i.val 0#32).extractLsb' (8 * j.val) 8)) ∧
    ∀ n : Fin 16, (digest s)[n.val]? = some ((digestBus s).extractLsb' (8 * n.val) 8)) ∧
  ∀ s : State, s.cv = ⟨0x7A0148A4#32, 0x52D821AF#32, 0xE80AC15F#32, 0x9D72A67A#32⟩ →
    digest s = [0xa4#8, 0x48#8, 0x01#8, 0x7a#8, 0xaf#8, 0x21#8, 0xd8#8, 0x52#8, 0x5f#8, 0xc1#8, 0x0a#8, 0xe8#8, 0x7a#8,
      0xa6#8, 0x72#8, 0x9d#8]

/-! ### The machine and its port -/

/-- A step runs the decoded instruction: an idle engine that samples a presented word executes it with the word taken from
the stream; inside a TRANSFORM the instruction the step index selects is executed with the index moved on (to the
feed-forward after 47); after that the four additions. With no reset asserted. `withFetchWord` places an instruction so
that the very next step runs it, reset asserted or not. The list of samples (log 2), what `withFetchWord` places and where
(log 3), and the steps one at a time (log 4) are the model's choices. -/
def Obligations.StepRunsTheDecodedInstruction : Prop :=
  (∀ (s : State) (p : PortSample) (rest : List PortSample) (i : Instr),
    s.seq = .idle → s.inputs = p :: rest → p.reset = false → p.cmdValid = true → decode (.cmd p.cmd) = .ok i →
    step s = exec i (s.setInputs rest)) ∧
  (∀ (s : State) (t : BitVec 6) (i : Instr),
    s.seq = .round t → resetAsserted s = false → decode (.step t) = .ok i →
    step s = exec i (s.setSeq (if t = 47#6 then .addBack else .round (t + 1#6)))) ∧
  (∀ s : State, s.seq = .addBack → resetAsserted s = false → step s = .next (addBack s)) ∧
  (∀ (s : State) (w : BitVec 10),
    step (s.withFetchWord 16 w.toNat) = exec (decodeCmd w) (s.setSeq .idle)) ∧
  ∀ (s : State) (t : BitVec 6) (i : Instr), decode (.step t) = .ok i →
    (resetAsserted s = false →
      step (s.withFetchWord 8 t.toNat) = exec i (s.setSeq (if t = 47#6 then .addBack else .round (t + 1#6)))) ∧
    (resetAsserted s = true →
      step (s.withFetchWord 8 t.toNat) =
        exec i ((s.setInputs (presentNothing :: s.inputs)).setSeq (if t = 47#6 then .addBack else .round (t + 1#6))))

/-- R191, R198: with nothing presented (or the stream at its end) an idle engine keeps its state; a busy engine has
cmd_ready = 0 and takes no word from the port. -/
def Obligations.NothingIsAcceptedWhenIdleOrBusy : Prop :=
  (∀ s : State, s.seq = .idle → s.inputs = [] → step s = .next s) ∧
  (∀ (s : State) (p : PortSample) (rest : List PortSample), s.seq = .idle → s.inputs = p :: rest →
    p.reset = false → p.cmdValid = false → step s = .next (s.setInputs rest)) ∧
  ∀ s t : State, s.seq ≠ .idle → resetAsserted s = false → step s = .next t →
    cmdReady s = false ∧ t.inputs = s.inputs

/-- R217, R216, R203: reset wins. In any state, whatever is presented beside it and whatever is executing, a step with
reset asserted accepts no word and leaves the state of a freshly created context; once reset is released cmd_ready is 1.
That the sequencer is idle then (log 4; R216 leaves the step index unspecified) and that one sample of the port is used up
(log 2, 16) is the model's choice. -/
def Obligations.ResetWinsOverEverything : Prop :=
  ∀ (s : State) (v : Bool) (w : BitVec 10) (rest : List PortSample), s.inputs = presentReset v w :: rest →
    ∃ t, step s = .next t ∧ t.cv = Config.md4IV ∧ t.total = 0#64 ∧ t.len = 0#6 ∧ t.done = false ∧ t.seq = .idle ∧
      t.inputs = rest ∧ digest t = chainBytes Config.md4IV ∧ digestValid t = false ∧
      (resetAsserted t = false → cmdReady t = true)

/-- R25: the values after power-up, after hardware reset and after INIT are the same: CV = MD4_IV, total = 0, len = 0,
done = 0, digest = the serialisation of MD4_IV, digest_valid = 0. -/
def Obligations.ResetValues : Prop :=
  ∀ (s : State) (d : Byte), ∃ t, exec (.init d) s = .next t ∧
    ∀ u, (u = State.reset ∨ u = hardwareReset s ∨ u = t) →
      u.cv = ⟨0x67452301#32, 0xEFCDAB89#32, 0x98BADCFE#32, 0x10325476#32⟩ ∧ u.total = 0#64 ∧ u.len = 0#6 ∧ u.done = false ∧
      digest u = [0x01#8, 0x23#8, 0x45#8, 0x67#8, 0x89#8, 0xAB#8, 0xCD#8, 0xEF#8, 0xFE#8, 0xDC#8, 0xBA#8, 0x98#8, 0x76#8,
        0x54#8, 0x32#8, 0x10#8] ∧
      digestValid u = false

/-- R191: a run is a fold over the list of accepted words. An idle engine with a list of words presented one after the
other executes each exactly once, in order, one step each, whatever follows at the port. -/
def Obligations.AWordStreamIsAFoldOfCommands : Prop :=
  ∀ (ws : List (BitVec 10)) (rest : List PortSample) (s : State), s.seq = .idle →
    Host.Core.run Sys2Proof.core ws.length (s.setInputs (ws.map presentWord ++ rest)) = runWords ws (s.setInputs rest)

/-- R200: no instruction ends in a fault or a refusal, in any state; no step does in any state whose step index is legal,
and none ever faults. -/
def Obligations.TheEngineRaisesNothing : Prop :=
  (∀ (i : Instr) (s : State), ∃ t, exec i s = .next t) ∧
  (∀ s : State, s.seq.legal → StepsOn s) ∧
  ∀ (ws : List (BitVec 10)) (s : State), ∃ t, runWords ws s = .next t

/-- R54, entry U8: a step index from 48 to 63 has no meaning; the model refuses it by name (log 12), in states no run
reaches. -/
def Obligations.StepIndexesFrom48AreRefused : Prop :=
  ∀ (s : State) (t : BitVec 6), s.seq = .round t → 48 ≤ t.toNat → resetAsserted s = false →
    step s = .refused (.noSuchStep t)

/-- The invariant is kept by every step, from every state that meets it: the storage stays canonical, len = total mod 64
(R18), the bytes below len are valid (R17), the step index is legal (R20). -/
def Obligations.EveryStepKeepsTheInvariant : Prop :=
  ∀ s t : State, EngineInv s → step s = .next t → EngineInv t

/-- The invariant holds at reset. -/
def Obligations.ResetMeetsTheInvariant : Prop := EngineInv State.reset

/-- R18: between commands len = total mod 64: it holds after reset and INIT, and ABSORB, FINALIZE and NOP keep it. -/
def Obligations.OccupancyIsTotalMod64 : Prop :=
  State.reset.len.toNat = State.reset.total.toNat % 64 ∧
  (∀ s, (hardwareReset s).len.toNat = (hardwareReset s).total.toNat % 64) ∧
  (∀ (d : Byte) (s : State), ∃ t, exec (.init d) s = .next t ∧ t.len.toNat = t.total.toNat % 64) ∧
  ∀ (w : BitVec 10) (s : State), s.len.toNat = s.total.toNat % 64 →
    ∃ t, exec (decodeCmd w) s = .next t ∧ t.len.toNat = t.total.toNat % 64

/-- The storage of the block buffer is one list for one content: canonical storages that read the same at every index are
equal; a byte written is the byte read there and nowhere else; writing keeps the canonical form. The listing and its
canonical form are the model's choice (log 6). -/
def Obligations.StorageIsCanonical : Prop :=
  (∀ m n : Memory, m.wf → n.wf → (∀ a, m.read a = n.read a) → m = n) ∧
  ∀ (m : Memory) (a : Nat) (b : Byte), m.wf → a < 64 →
    (m.write a b).wf ∧ ∀ c, (m.write a b).read c = if c = a then some b else m.read c

/-! ### Whole computations -/

/-- The transient elements and the stale bytes are never observable (R23): two engines that agree on CV, total, len, done
and the valid bytes, and differ in anything else, agree again after any run of commands, in all that the host can ever
see. -/
def Obligations.TransientStateIsNeverObservable : Prop :=
  ∀ (ws : List (BitVec 10)) (s t : State), SameContext s t →
    ∃ u v, runWords ws s = .next u ∧ runWords ws t = .next v ∧ SameContext u v ∧ digestBus u = digestBus v ∧
      digestValid u = digestValid v

/-- R169: after INIT (or reset) and ABSORB_SEQ m, for any message m of n bytes: total = n mod 2^64, len = n mod 64, CV is
MD4_IV folded with TRANSFORM over the first floor(n / 64) blocks, the valid bytes are the last n mod 64 bytes of m, and
done = 0. -/
def Obligations.StateAfterAbsorbingAMessage : Prop :=
  ∀ (m : List Byte) (s : State), Fresh s →
    ∃ t, runWords (absorbSeq m) s = .next t ∧
      t.total.toNat = m.length % 2 ^ 64 ∧ t.len.toNat = m.length % 64 ∧
      t.cv = foldBlocks Config.md4IV m (m.length / 64) ∧
      (∀ i, i < m.length % 64 → t.buf.read i = m[64 * (m.length / 64) + i]?) ∧ t.done = false

/-- R167: chunking invariance. Absorbing a concatenation is absorbing the pieces in order, empty pieces included; and NOPs
between the bytes change nothing: a run of ABSORBs and NOPs is the ABSORB_SEQ of its bytes. -/
def Obligations.ChunkingDoesNotMatter : Prop :=
  (∀ (chunks : List (List Byte)) (s : State),
    runWords (absorbSeq chunks.flatten) s = runWords (chunks.map absorbSeq).flatten s) ∧
  (∀ (xs ys : List Byte) (s t : State), runWords (absorbSeq xs) s = .next t →
    runWords (absorbSeq (xs ++ ys)) s = runWords (absorbSeq ys) t) ∧
  ∀ (ws : List (BitVec 10)) (s : State), (∀ w ∈ ws, cmdKind w = .absorb ∨ cmdKind w = .nop) →
    runWords ws s = runWords (absorbSeq (messageOf [] ws)) s

/-- R183: for every message m and from every state, INIT; ABSORB_SEQ m; FINALIZE leaves in digest the serialised fold of
TRANSFORM over the blocks of the padded message, from MD4_IV, with digest_valid = 1; and the four digests the source
gives. (The strings are their ASCII bytes.) -/
def Obligations.TheEngineComputesMd4 : Prop :=
  (∀ (m : List Byte) (s : State), ∃ t, runWords (digestWords m) s = .next t ∧
    digest t = chainBytes (foldBlocks Config.md4IV (m ++ PADSEQ (padLen (m.length % 64)) (BitVec.ofNat 64 (8 * m.length)))
      ((m.length + padLen (m.length % 64) + 8) / 64)) ∧
    (m.length + padLen (m.length % 64) + 8) % 64 = 0 ∧ digest t = md4 m ∧ digestValid t = true) ∧
  md4 [] = [0x31#8, 0xd6#8, 0xcf#8, 0xe0#8, 0xd1#8, 0x6a#8, 0xe9#8, 0x31#8, 0xb7#8, 0x3c#8, 0x59#8, 0xd7#8, 0xe0#8, 0xc0#8,
    0x89#8, 0xc0#8] ∧
  md4 [0x61#8] = [0xbd#8, 0xe5#8, 0x2c#8, 0xb3#8, 0x1d#8, 0xe3#8, 0x3e#8, 0x46#8, 0x24#8, 0x5e#8, 0x05#8, 0xfb#8, 0xdb#8,
    0xd6#8, 0xfb#8, 0x24#8] ∧
  md4 [0x61#8, 0x62#8, 0x63#8] = [0xa4#8, 0x48#8, 0x01#8, 0x7a#8, 0xaf#8, 0x21#8, 0xd8#8, 0x52#8, 0x5f#8, 0xc1#8, 0x0a#8,
    0xe8#8, 0x7a#8, 0xa6#8, 0x72#8, 0x9d#8] ∧
  md4 [0x6d#8, 0x65#8, 0x73#8, 0x73#8, 0x61#8, 0x67#8, 0x65#8, 0x20#8, 0x64#8, 0x69#8, 0x67#8, 0x65#8, 0x73#8, 0x74#8] =
    [0xd9#8, 0x13#8, 0x0a#8, 0x81#8, 0x64#8, 0x54#8, 0x9f#8, 0xe8#8, 0x18#8, 0x87#8, 0x48#8, 0x06#8, 0xe1#8, 0xc7#8,
     0x01#8, 0x4b#8]

/-- R181: digest_valid = 1 means what it says. From a fresh context, after any stream in which no ABSORB or FINALIZE comes
while done is 1, if digest_valid is 1 then digest is the MD4 digest of the bytes absorbed since the last INIT. -/
def Obligations.AValidDigestIsTheDigestOfTheMessage : Prop :=
  ∀ (ws : List (BitVec 10)) (s : State), Fresh s → noMisuse false ws = true →
    ∃ t, runWords ws s = .next t ∧ (digestValid t = true → digest t = md4 (messageOf [] ws))

/-- Once done = 1 the digest stands until the next INIT, ABSORB, FINALIZE or reset (R181, R222): any run of NOPs, and any
idle moment at the port, leaves digest and digest_valid as they are. -/
def Obligations.TheDigestStandsUntilTheNextCommand : Prop :=
  (∀ (ws : List (BitVec 10)) (s : State), (∀ w ∈ ws, cmdKind w = .nop) → runWords ws s = .next s) ∧
  ∀ s t : State, s.seq = .idle → (∀ p ∈ s.inputs, p.reset = false ∧ (p.cmdValid = false ∨ cmdKind p.cmd = .nop)) →
    step s = .next t → digest t = digest s ∧ digestValid t = digestValid s

/-- R195, R196: DIGEST of a present input answers its sixteen MD4 bytes with digest_valid = 1 and leaves done = 1, from any
idle engine with no reset asserted; DIGEST of an absent input fails with InvalidArgument and leaves the state unchanged. -/
def Obligations.DigestOperationIsTotal : Prop :=
  (∀ (m : List Byte) (s : State), s.seq = .idle → resetAsserted s = false →
    ∃ t, digestOp (some m) s = .sampled (md4 m) true t ∧ t.done = true) ∧
  ∀ s : State, digestOp none s = .invalidArgument s

/-- R197: run on the engine from a context with done = 0, a stream of the protocol's grammar meets no ABSORB and no FINALIZE
while done = 1. The second clause says what the premise `noMisuse` of AValidDigestIsTheDigestOfTheMessage means on the
engine: it holds of exactly the streams that meet none; the third, that the streams of the grammar have it. -/
def Obligations.GrammarStreamsCommitNoMisuse : Prop :=
  (∀ (p q : List (BitVec 10)) (w : BitVec 10) (s u : State), IsStream (p ++ w :: q) → s.done = false →
    runWords p s = .next u → cmdKind w = .absorb ∨ cmdKind w = .finalize → u.done = false) ∧
  (∀ (ws : List (BitVec 10)) (s : State), noMisuse s.done ws = true ↔
    ∀ (p q : List (BitVec 10)) (w : BitVec 10) (u : State), ws = p ++ w :: q → runWords p s = .next u →
      cmdKind w = .absorb ∨ cmdKind w = .finalize → u.done = false) ∧
  ∀ ws : List (BitVec 10), IsStream ws → noMisuse false ws = true

/-- The amount of work (R226): a message of n bytes costs floor((n + 8) / 64) + 1 TRANSFORMs in all, counted by the model's
epoch (log 5). -/
def Obligations.TransformsPerMessage : Prop :=
  ∀ (m : List Byte) (s t : State), runWords (digestWords m) s = .next t →
    t.epoch = s.epoch + (m.length + 8) / 64 + 1
end

