-- ==== Sys2Proof/Laws/State.lean ====
section
/-! SUPPORT. One lemma for each field under each update of the state, and under the flag operations. Each is proved by
cases and then rfl, so that simp rewrites with it instead of leaving the whole comparison of two states to the kernel
(which may then unfold TRANSFORM on variables, 48 steps deep). -/

namespace Sys2Proof.Machine

variable (s : State)

@[simp] theorem setCv_cv (v : Chain) : (s.setCv v).cv = v := by cases s; rfl
@[simp] theorem setCv_total (v : Chain) : (s.setCv v).total = s.total := by cases s; rfl
@[simp] theorem setCv_buf (v : Chain) : (s.setCv v).buf = s.buf := by cases s; rfl
@[simp] theorem setCv_len (v : Chain) : (s.setCv v).len = s.len := by cases s; rfl
@[simp] theorem setCv_done (v : Chain) : (s.setCv v).done = s.done := by cases s; rfl
@[simp] theorem setCv_work (v : Chain) : (s.setCv v).work = s.work := by cases s; rfl
@[simp] theorem setCv_X (v : Chain) : (s.setCv v).X = s.X := by cases s; rfl
@[simp] theorem setCv_seq (v : Chain) : (s.setCv v).seq = s.seq := by cases s; rfl
@[simp] theorem setCv_inputs (v : Chain) : (s.setCv v).inputs = s.inputs := by cases s; rfl
@[simp] theorem setCv_epoch (v : Chain) : (s.setCv v).epoch = s.epoch := by cases s; rfl

@[simp] theorem setTotal_cv (v : BitVec 64) : (s.setTotal v).cv = s.cv := by cases s; rfl
@[simp] theorem setTotal_total (v : BitVec 64) : (s.setTotal v).total = v := by cases s; rfl
@[simp] theorem setTotal_buf (v : BitVec 64) : (s.setTotal v).buf = s.buf := by cases s; rfl
@[simp] theorem setTotal_len (v : BitVec 64) : (s.setTotal v).len = s.len := by cases s; rfl
@[simp] theorem setTotal_done (v : BitVec 64) : (s.setTotal v).done = s.done := by cases s; rfl
@[simp] theorem setTotal_work (v : BitVec 64) : (s.setTotal v).work = s.work := by cases s; rfl
@[simp] theorem setTotal_X (v : BitVec 64) : (s.setTotal v).X = s.X := by cases s; rfl
@[simp] theorem setTotal_seq (v : BitVec 64) : (s.setTotal v).seq = s.seq := by cases s; rfl
@[simp] theorem setTotal_inputs (v : BitVec 64) : (s.setTotal v).inputs = s.inputs := by cases s; rfl
@[simp] theorem setTotal_epoch (v : BitVec 64) : (s.setTotal v).epoch = s.epoch := by cases s; rfl

@[simp] theorem setBuf_cv (v : Memory) : (s.setBuf v).cv = s.cv := by cases s; rfl
@[simp] theorem setBuf_total (v : Memory) : (s.setBuf v).total = s.total := by cases s; rfl
@[simp] theorem setBuf_buf (v : Memory) : (s.setBuf v).buf = v := by cases s; rfl
@[simp] theorem setBuf_len (v : Memory) : (s.setBuf v).len = s.len := by cases s; rfl
@[simp] theorem setBuf_done (v : Memory) : (s.setBuf v).done = s.done := by cases s; rfl
@[simp] theorem setBuf_work (v : Memory) : (s.setBuf v).work = s.work := by cases s; rfl
@[simp] theorem setBuf_X (v : Memory) : (s.setBuf v).X = s.X := by cases s; rfl
@[simp] theorem setBuf_seq (v : Memory) : (s.setBuf v).seq = s.seq := by cases s; rfl
@[simp] theorem setBuf_inputs (v : Memory) : (s.setBuf v).inputs = s.inputs := by cases s; rfl
@[simp] theorem setBuf_epoch (v : Memory) : (s.setBuf v).epoch = s.epoch := by cases s; rfl

@[simp] theorem setLen_cv (v : BitVec 6) : (s.setLen v).cv = s.cv := by cases s; rfl
@[simp] theorem setLen_total (v : BitVec 6) : (s.setLen v).total = s.total := by cases s; rfl
@[simp] theorem setLen_buf (v : BitVec 6) : (s.setLen v).buf = s.buf := by cases s; rfl
@[simp] theorem setLen_len (v : BitVec 6) : (s.setLen v).len = v := by cases s; rfl
@[simp] theorem setLen_done (v : BitVec 6) : (s.setLen v).done = s.done := by cases s; rfl
@[simp] theorem setLen_work (v : BitVec 6) : (s.setLen v).work = s.work := by cases s; rfl
@[simp] theorem setLen_X (v : BitVec 6) : (s.setLen v).X = s.X := by cases s; rfl
@[simp] theorem setLen_seq (v : BitVec 6) : (s.setLen v).seq = s.seq := by cases s; rfl
@[simp] theorem setLen_inputs (v : BitVec 6) : (s.setLen v).inputs = s.inputs := by cases s; rfl
@[simp] theorem setLen_epoch (v : BitVec 6) : (s.setLen v).epoch = s.epoch := by cases s; rfl

@[simp] theorem setDone_cv (v : Bool) : (s.setDone v).cv = s.cv := by cases s; rfl
@[simp] theorem setDone_total (v : Bool) : (s.setDone v).total = s.total := by cases s; rfl
@[simp] theorem setDone_buf (v : Bool) : (s.setDone v).buf = s.buf := by cases s; rfl
@[simp] theorem setDone_len (v : Bool) : (s.setDone v).len = s.len := by cases s; rfl
@[simp] theorem setDone_done (v : Bool) : (s.setDone v).done = v := by cases s; rfl
@[simp] theorem setDone_work (v : Bool) : (s.setDone v).work = s.work := by cases s; rfl
@[simp] theorem setDone_X (v : Bool) : (s.setDone v).X = s.X := by cases s; rfl
@[simp] theorem setDone_seq (v : Bool) : (s.setDone v).seq = s.seq := by cases s; rfl
@[simp] theorem setDone_inputs (v : Bool) : (s.setDone v).inputs = s.inputs := by cases s; rfl
@[simp] theorem setDone_epoch (v : Bool) : (s.setDone v).epoch = s.epoch := by cases s; rfl

@[simp] theorem setWork_cv (v : Chain) : (s.setWork v).cv = s.cv := by cases s; rfl
@[simp] theorem setWork_total (v : Chain) : (s.setWork v).total = s.total := by cases s; rfl
@[simp] theorem setWork_buf (v : Chain) : (s.setWork v).buf = s.buf := by cases s; rfl
@[simp] theorem setWork_len (v : Chain) : (s.setWork v).len = s.len := by cases s; rfl
@[simp] theorem setWork_done (v : Chain) : (s.setWork v).done = s.done := by cases s; rfl
@[simp] theorem setWork_work (v : Chain) : (s.setWork v).work = v := by cases s; rfl
@[simp] theorem setWork_X (v : Chain) : (s.setWork v).X = s.X := by cases s; rfl
@[simp] theorem setWork_seq (v : Chain) : (s.setWork v).seq = s.seq := by cases s; rfl
@[simp] theorem setWork_inputs (v : Chain) : (s.setWork v).inputs = s.inputs := by cases s; rfl
@[simp] theorem setWork_epoch (v : Chain) : (s.setWork v).epoch = s.epoch := by cases s; rfl

@[simp] theorem setX_cv (v : WorkWords) : (s.setX v).cv = s.cv := by cases s; rfl
@[simp] theorem setX_total (v : WorkWords) : (s.setX v).total = s.total := by cases s; rfl
@[simp] theorem setX_buf (v : WorkWords) : (s.setX v).buf = s.buf := by cases s; rfl
@[simp] theorem setX_len (v : WorkWords) : (s.setX v).len = s.len := by cases s; rfl
@[simp] theorem setX_done (v : WorkWords) : (s.setX v).done = s.done := by cases s; rfl
@[simp] theorem setX_work (v : WorkWords) : (s.setX v).work = s.work := by cases s; rfl
@[simp] theorem setX_X (v : WorkWords) : (s.setX v).X = v := by cases s; rfl
@[simp] theorem setX_seq (v : WorkWords) : (s.setX v).seq = s.seq := by cases s; rfl
@[simp] theorem setX_inputs (v : WorkWords) : (s.setX v).inputs = s.inputs := by cases s; rfl
@[simp] theorem setX_epoch (v : WorkWords) : (s.setX v).epoch = s.epoch := by cases s; rfl

@[simp] theorem setSeq_cv (v : Sequencer) : (s.setSeq v).cv = s.cv := by cases s; rfl
@[simp] theorem setSeq_total (v : Sequencer) : (s.setSeq v).total = s.total := by cases s; rfl
@[simp] theorem setSeq_buf (v : Sequencer) : (s.setSeq v).buf = s.buf := by cases s; rfl
@[simp] theorem setSeq_len (v : Sequencer) : (s.setSeq v).len = s.len := by cases s; rfl
@[simp] theorem setSeq_done (v : Sequencer) : (s.setSeq v).done = s.done := by cases s; rfl
@[simp] theorem setSeq_work (v : Sequencer) : (s.setSeq v).work = s.work := by cases s; rfl
@[simp] theorem setSeq_X (v : Sequencer) : (s.setSeq v).X = s.X := by cases s; rfl
@[simp] theorem setSeq_seq (v : Sequencer) : (s.setSeq v).seq = v := by cases s; rfl
@[simp] theorem setSeq_inputs (v : Sequencer) : (s.setSeq v).inputs = s.inputs := by cases s; rfl
@[simp] theorem setSeq_epoch (v : Sequencer) : (s.setSeq v).epoch = s.epoch := by cases s; rfl

@[simp] theorem setInputs_cv (v : List PortSample) : (s.setInputs v).cv = s.cv := by cases s; rfl
@[simp] theorem setInputs_total (v : List PortSample) : (s.setInputs v).total = s.total := by cases s; rfl
@[simp] theorem setInputs_buf (v : List PortSample) : (s.setInputs v).buf = s.buf := by cases s; rfl
@[simp] theorem setInputs_len (v : List PortSample) : (s.setInputs v).len = s.len := by cases s; rfl
@[simp] theorem setInputs_done (v : List PortSample) : (s.setInputs v).done = s.done := by cases s; rfl
@[simp] theorem setInputs_work (v : List PortSample) : (s.setInputs v).work = s.work := by cases s; rfl
@[simp] theorem setInputs_X (v : List PortSample) : (s.setInputs v).X = s.X := by cases s; rfl
@[simp] theorem setInputs_seq (v : List PortSample) : (s.setInputs v).seq = s.seq := by cases s; rfl
@[simp] theorem setInputs_inputs (v : List PortSample) : (s.setInputs v).inputs = v := by cases s; rfl
@[simp] theorem setInputs_epoch (v : List PortSample) : (s.setInputs v).epoch = s.epoch := by cases s; rfl

@[simp] theorem setEpoch_cv (v : Nat) : (s.setEpoch v).cv = s.cv := by cases s; rfl
@[simp] theorem setEpoch_total (v : Nat) : (s.setEpoch v).total = s.total := by cases s; rfl
@[simp] theorem setEpoch_buf (v : Nat) : (s.setEpoch v).buf = s.buf := by cases s; rfl
@[simp] theorem setEpoch_len (v : Nat) : (s.setEpoch v).len = s.len := by cases s; rfl
@[simp] theorem setEpoch_done (v : Nat) : (s.setEpoch v).done = s.done := by cases s; rfl
@[simp] theorem setEpoch_work (v : Nat) : (s.setEpoch v).work = s.work := by cases s; rfl
@[simp] theorem setEpoch_X (v : Nat) : (s.setEpoch v).X = s.X := by cases s; rfl
@[simp] theorem setEpoch_seq (v : Nat) : (s.setEpoch v).seq = s.seq := by cases s; rfl
@[simp] theorem setEpoch_inputs (v : Nat) : (s.setEpoch v).inputs = s.inputs := by cases s; rfl
@[simp] theorem setEpoch_epoch (v : Nat) : (s.setEpoch v).epoch = v := by cases s; rfl

@[simp] theorem markDone_cv : (markDone s).cv = s.cv := by cases s; rfl
@[simp] theorem markDone_total : (markDone s).total = s.total := by cases s; rfl
@[simp] theorem markDone_buf : (markDone s).buf = s.buf := by cases s; rfl
@[simp] theorem markDone_len : (markDone s).len = s.len := by cases s; rfl
@[simp] theorem markDone_done : (markDone s).done = true := by cases s; rfl
@[simp] theorem markDone_work : (markDone s).work = s.work := by cases s; rfl
@[simp] theorem markDone_X : (markDone s).X = s.X := by cases s; rfl
@[simp] theorem markDone_seq : (markDone s).seq = s.seq := by cases s; rfl
@[simp] theorem markDone_inputs : (markDone s).inputs = s.inputs := by cases s; rfl
@[simp] theorem markDone_epoch : (markDone s).epoch = s.epoch := by cases s; rfl

@[simp] theorem clearDone_cv : (clearDone s).cv = s.cv := by cases s; rfl
@[simp] theorem clearDone_total : (clearDone s).total = s.total := by cases s; rfl
@[simp] theorem clearDone_buf : (clearDone s).buf = s.buf := by cases s; rfl
@[simp] theorem clearDone_len : (clearDone s).len = s.len := by cases s; rfl
@[simp] theorem clearDone_done : (clearDone s).done = false := by cases s; rfl
@[simp] theorem clearDone_work : (clearDone s).work = s.work := by cases s; rfl
@[simp] theorem clearDone_X : (clearDone s).X = s.X := by cases s; rfl
@[simp] theorem clearDone_seq : (clearDone s).seq = s.seq := by cases s; rfl
@[simp] theorem clearDone_inputs : (clearDone s).inputs = s.inputs := by cases s; rfl
@[simp] theorem clearDone_epoch : (clearDone s).epoch = s.epoch := by cases s; rfl

end Sys2Proof.Machine
end

