-- ==== Sys2Proof/Laws/Buffer.lean ====
section
/-! SUPPORT. The laws of the block buffer's storage: what a read gives after a write, and the canonical form. -/

namespace Sys2Proof.Machine

@[simp] theorem Memory.read_nil (a : Nat) : Memory.read [] a = none := rfl

@[simp] theorem Memory.read_write_same (m : Memory) (a : Nat) (b : Byte) : (m.write a b).read a = some b := by
  induction m with
  | nil => simp [Memory.write, Memory.read]
  | cons c m ih =>
    obtain ⟨c, x⟩ := c
    simp only [Memory.write]
    split
    · simp [Memory.read]
    · split
      · simp [Memory.read]
      · next h => simp [Memory.read, Ne.symm h, ih]

theorem Memory.read_write_other (m : Memory) {a c : Nat} (b : Byte) (h : c ≠ a) :
    (m.write a b).read c = m.read c := by
  induction m with
  | nil => simp [Memory.write, Memory.read, Ne.symm h]
  | cons d m ih =>
    obtain ⟨d, x⟩ := d
    simp only [Memory.write]
    split
    · simp [Memory.read, Ne.symm h]
    · split
      · next h' => subst h'; simp [Memory.read, Ne.symm h]
      · simp [Memory.read, ih]

/-- The indexes listed after a write are those listed before and the one written. -/
theorem Memory.mem_keys_write (m : Memory) (a : Nat) (b : Byte) {k : Nat} :
    k ∈ (m.write a b).map Prod.fst ↔ k = a ∨ k ∈ m.map Prod.fst := by
  induction m with
  | nil => simp [Memory.write]
  | cons d m ih =>
    obtain ⟨d, x⟩ := d
    simp only [Memory.write]
    split
    · simp
    · split
      · next h => subst h; simp
      · simp only [List.map_cons, List.mem_cons, ih]; tauto

/-- Every write keeps the canonical form. -/
theorem Memory.write_wf {m : Memory} (h : m.wf) {a : Nat} (ha : a < 64) (b : Byte) : (m.write a b).wf := by
  have bound : ∀ k, k ∈ (m.write a b).map Prod.fst → k < 64 := by
    intro k hk
    rcases (Memory.mem_keys_write m a b).1 hk with rfl | hk
    · exact ha
    · obtain ⟨c, hc, rfl⟩ := List.mem_map.1 hk; exact h.2 c hc
  refine ⟨?_, fun c hc => bound _ (List.mem_map_of_mem hc)⟩
  have hs := h.1
  clear h bound
  induction m with
  | nil => simp [Memory.write]
  | cons d m ih =>
    obtain ⟨d, x⟩ := d
    simp only [List.map_cons, List.pairwise_cons] at hs
    simp only [Memory.write]
    split
    · next hlt =>
      simp only [List.map_cons, List.pairwise_cons, List.mem_cons]
      exact ⟨fun k hk => hk.elim (fun e => e ▸ hlt) (fun hk => Nat.lt_trans hlt (hs.1 k hk)), hs⟩
    · split
      · next h => subst h; simpa using hs
      · next h1 h2 =>
        simp only [List.map_cons, List.pairwise_cons]
        refine ⟨fun k hk => ?_, ih hs.2⟩
        rcases (Memory.mem_keys_write m a b).1 hk with rfl | hk
        · omega
        · exact hs.1 k hk

theorem Memory.wf_nil : Memory.wf [] := ⟨List.Pairwise.nil, fun _ h => absurd h List.not_mem_nil⟩

/-- The power-up storage is in canonical form. -/
theorem reset_buf_wf : State.reset.buf.wf := Memory.wf_nil

end Sys2Proof.Machine
end

