-- ==== Sys2Proof/Laws/Ops.lean ====
section
/-! SUPPORT. One spec lemma for each shared operation: what it writes, all at once, so that no later proof unfolds it. -/

namespace Sys2Proof.Machine

/-- The loop of TRANSFORM on the engine's registers is the pure ROUNDS48 on the working registers; beside them it moves
the sequencer only. -/
theorem foldl_roundStep (l : List (Fin 48)) (s : State) :
    ∃ q, l.foldl roundStep s = (s.setWork (l.foldl (fun w t => STEP t w s.X) s.work)).setSeq q := by
  induction l generalizing s with
  | nil => exact ⟨s.seq, rfl⟩
  | cons t l ih =>
    obtain ⟨q, hq⟩ := ih (roundStep s t)
    exact ⟨q, by simpa [roundStep, State.setWork, State.setSeq] using hq⟩

@[simp] theorem beginTransform_inputs (s : State) : (beginTransform s).inputs = s.inputs := by simp [beginTransform]
@[simp] theorem beginTransform_seq (s : State) : (beginTransform s).seq = .round 0#6 := by simp [beginTransform]
@[simp] theorem roundStep_inputs (s : State) (t : Fin 48) : (roundStep s t).inputs = s.inputs := by simp [roundStep]
@[simp] theorem roundStep_seq (s : State) (t : Fin 48) :
    (roundStep s t).seq = nextSeq (BitVec.ofNat 6 t.val) := by simp [roundStep]

theorem releaseTransient_def (s : State) :
    releaseTransient s =
      ((s.setWork (Config.transientChain s.epoch)).setX (Config.transientWords s.epoch)).setEpoch (s.epoch + 1) := rfl

@[simp] theorem releaseTransient_cv (s : State) : (releaseTransient s).cv = s.cv := by cases s; rfl
@[simp] theorem releaseTransient_total (s : State) : (releaseTransient s).total = s.total := by cases s; rfl
@[simp] theorem releaseTransient_buf (s : State) : (releaseTransient s).buf = s.buf := by cases s; rfl
@[simp] theorem releaseTransient_len (s : State) : (releaseTransient s).len = s.len := by cases s; rfl
@[simp] theorem releaseTransient_done (s : State) : (releaseTransient s).done = s.done := by cases s; rfl
@[simp] theorem releaseTransient_seq (s : State) : (releaseTransient s).seq = s.seq := by cases s; rfl
@[simp] theorem releaseTransient_inputs (s : State) : (releaseTransient s).inputs = s.inputs := by cases s; rfl
@[simp] theorem releaseTransient_epoch (s : State) : (releaseTransient s).epoch = s.epoch + 1 := by cases s; rfl

/-- Giving up the transient elements forgets what they were. -/
theorem releaseTransient_forgets (s : State) (w : Chain) (x : WorkWords) :
    releaseTransient ((s.setWork w).setX x) = releaseTransient s := rfl

theorem addBack_set (s : State) (x : WorkWords) (v w : Chain) (q : Sequencer) :
    addBack ((((s.setX x).setWork v).setWork w).setSeq q) =
      releaseTransient ((s.setCv (chainAdd s.cv w)).setSeq .idle) := rfl

theorem setSeq_setSeq (s : State) (p q : Sequencer) : (s.setSeq p).setSeq q = s.setSeq q := rfl

theorem setSeq_setWork (s : State) (q : Sequencer) (w : Chain) :
    (s.setSeq q).setWork w = (s.setWork w).setSeq q := rfl

/-- Any part of the loop, between lines 1, 2 and line 4 of R152. -/
theorem addBack_foldl (l : List (Fin 48)) (s : State) :
    addBack (l.foldl roundStep (beginTransform s)) =
      releaseTransient
        ((s.setCv (chainAdd s.cv (l.foldl (fun w t => STEP t w (DECODE (bufBlock s))) s.cv))).setSeq .idle) := by
  obtain ⟨q, hq⟩ := foldl_roundStep l (beginTransform s)
  rw [hq]
  unfold beginTransform
  rw [setSeq_setWork, setSeq_setSeq]
  exact addBack_set ..

/-- TRANSFORM on the engine's state: CV gets the pure TRANSFORM of CV and the buffer; the transient elements are given
up; nothing else changes. -/
theorem runTransform_eq (s : State) :
    runTransform s = releaseTransient ((s.setCv (TRANSFORM s.cv (bufBlock s))).setSeq .idle) := by
  unfold runTransform TRANSFORM ROUNDS48
  exact addBack_foldl _ s

@[simp] theorem runTransform_cv (s : State) : (runTransform s).cv = TRANSFORM s.cv (bufBlock s) := by
  simp [runTransform_eq]
@[simp] theorem runTransform_total (s : State) : (runTransform s).total = s.total := by simp [runTransform_eq]
@[simp] theorem runTransform_buf (s : State) : (runTransform s).buf = s.buf := by simp [runTransform_eq]
@[simp] theorem runTransform_len (s : State) : (runTransform s).len = s.len := by simp [runTransform_eq]
@[simp] theorem runTransform_done (s : State) : (runTransform s).done = s.done := by simp [runTransform_eq]
@[simp] theorem runTransform_seq (s : State) : (runTransform s).seq = .idle := by simp [runTransform_eq]
@[simp] theorem runTransform_inputs (s : State) : (runTransform s).inputs = s.inputs := by simp [runTransform_eq]
@[simp] theorem runTransform_epoch (s : State) : (runTransform s).epoch = s.epoch + 1 := by simp [runTransform_eq]

/-- Everything ABSORB_BYTE does when it does not fill the buffer. -/
theorem absorbByte_of_ne {s : State} (h : s.len ≠ 63#6) (b : Byte) :
    absorbByte s b = ((s.setTotal (s.total + 1#64)).setBuf (s.buf.write s.len.toNat b)).setLen (s.len + 1#6) := by
  simp [absorbByte, h, bufWrite]

/-- Everything ABSORB_BYTE does when it stores the 64th byte of a block. -/
theorem absorbByte_of_eq {s : State} (h : s.len = 63#6) (b : Byte) :
    absorbByte s b =
      (runTransform ((s.setTotal (s.total + 1#64)).setBuf (s.buf.write s.len.toNat b))).setLen 0#6 := by
  simp [absorbByte, h, bufWrite]

@[simp] theorem absorbByte_total (s : State) (b : Byte) : (absorbByte s b).total = s.total + 1#64 := by
  by_cases h : s.len = 63#6 <;> simp [absorbByte, h, bufWrite]
@[simp] theorem absorbByte_buf (s : State) (b : Byte) : (absorbByte s b).buf = s.buf.write s.len.toNat b := by
  by_cases h : s.len = 63#6 <;> simp [absorbByte, h, bufWrite]
@[simp] theorem absorbByte_done (s : State) (b : Byte) : (absorbByte s b).done = s.done := by
  by_cases h : s.len = 63#6 <;> simp [absorbByte, h, bufWrite]
@[simp] theorem absorbByte_inputs (s : State) (b : Byte) : (absorbByte s b).inputs = s.inputs := by
  by_cases h : s.len = 63#6 <;> simp [absorbByte, h, bufWrite]
/-- Both advance by one, `len` wrapping at 64 (R18, R164). -/
theorem absorbByte_len (s : State) (b : Byte) : (absorbByte s b).len = s.len + 1#6 := by
  by_cases h : s.len = 63#6
  · simp [absorbByte_of_eq h, h]
  · simp [absorbByte_of_ne h]

@[simp] theorem absorbBytes_nil (s : State) : absorbBytes s [] = s := rfl
@[simp] theorem absorbBytes_cons (s : State) (b : Byte) (bs : List Byte) :
    absorbBytes s (b :: bs) = absorbBytes (absorbByte s b) bs := rfl
theorem absorbBytes_append (s : State) (xs ys : List Byte) :
    absorbBytes s (xs ++ ys) = absorbBytes (absorbBytes s xs) ys := by simp [absorbBytes]

@[simp] theorem absorbBytes_done (s : State) (bs : List Byte) : (absorbBytes s bs).done = s.done := by
  induction bs generalizing s with
  | nil => rfl
  | cons b bs ih => simp [ih]
theorem absorbBytes_total (s : State) (bs : List Byte) :
    (absorbBytes s bs).total = s.total + BitVec.ofNat 64 bs.length := by
  induction bs generalizing s with
  | nil => simp
  | cons b bs ih =>
    rw [absorbBytes_cons, ih, absorbByte_total]; apply BitVec.eq_of_toNat_eq; simp; omega
theorem absorbBytes_len (s : State) (bs : List Byte) :
    (absorbBytes s bs).len = s.len + BitVec.ofNat 6 bs.length := by
  induction bs generalizing s with
  | nil => simp
  | cons b bs ih =>
    rw [absorbBytes_cons, ih, absorbByte_len]; apply BitVec.eq_of_toNat_eq; simp; omega
@[simp] theorem absorbBytes_inputs (s : State) (bs : List Byte) : (absorbBytes s bs).inputs = s.inputs := by
  induction bs generalizing s with
  | nil => rfl
  | cons b bs ih => simp [ih]

@[simp] theorem contextReset_cv (s : State) : (contextReset s).cv = Config.md4IV := by cases s; rfl
@[simp] theorem contextReset_total (s : State) : (contextReset s).total = 0#64 := by cases s; rfl
@[simp] theorem contextReset_len (s : State) : (contextReset s).len = 0#6 := by cases s; rfl
@[simp] theorem contextReset_done (s : State) : (contextReset s).done = false := by cases s; rfl
@[simp] theorem contextReset_buf (s : State) : (contextReset s).buf = s.buf := by cases s; rfl
@[simp] theorem contextReset_work (s : State) : (contextReset s).work = s.work := by cases s; rfl
@[simp] theorem contextReset_X (s : State) : (contextReset s).X = s.X := by cases s; rfl
@[simp] theorem contextReset_epoch (s : State) : (contextReset s).epoch = s.epoch := by cases s; rfl
@[simp] theorem contextReset_seq (s : State) : (contextReset s).seq = s.seq := by cases s; rfl
@[simp] theorem contextReset_inputs (s : State) : (contextReset s).inputs = s.inputs := by cases s; rfl

@[simp] theorem hardwareReset_cv (s : State) : (hardwareReset s).cv = Config.md4IV := by simp [hardwareReset]
@[simp] theorem hardwareReset_total (s : State) : (hardwareReset s).total = 0#64 := by simp [hardwareReset]
@[simp] theorem hardwareReset_len (s : State) : (hardwareReset s).len = 0#6 := by simp [hardwareReset]
@[simp] theorem hardwareReset_done (s : State) : (hardwareReset s).done = false := by simp [hardwareReset]
@[simp] theorem hardwareReset_buf (s : State) : (hardwareReset s).buf = [] := by simp [hardwareReset]
@[simp] theorem hardwareReset_seq (s : State) : (hardwareReset s).seq = .idle := by simp [hardwareReset]
@[simp] theorem hardwareReset_inputs (s : State) : (hardwareReset s).inputs = s.inputs := by simp [hardwareReset]

theorem PADSEQ_length {n : Nat} (h : 1 ≤ n) (bits : BitVec 64) : (PADSEQ n bits).length = n + 8 := by
  simp [PADSEQ, countBytes]; omega

theorem padLen_pos {idx : Nat} (h : idx < 64) : 1 ≤ padLen idx := by unfold padLen; split <;> omega

theorem paddingOf_length (total : BitVec 64) :
    (paddingOf total).length = padLen (total.toNat % 64) + 8 := PADSEQ_length (padLen_pos (by omega)) _

@[simp] theorem runWords_nil (s : State) : runWords [] s = .next s := rfl

/-- A run whose first word executes goes on from there. -/
theorem runWords_cons_next {w : BitVec 10} {s t : State} (h : exec (decodeCmd w) s = .next t)
    (ws : List (BitVec 10)) : runWords (w :: ws) s = runWords ws t := by simp [runWords, h]

end Sys2Proof.Machine
end

