-- ==== Sys2Proof/Laws/Absorb.lean ====
section
/-! SUPPORT. Everything a run of ABSORB_BYTE does, said once: the pending bytes, the blocks folded into CV and the number
of TRANSFORMs. -/

namespace Sys2Proof.Machine

theorem len_eq_63 {s : State} : s.len = 63#6 ↔ s.len.toNat = 63 := by
  rw [BitVec.toNat_eq]; simp

/-- The bytes pending in the buffer, buf[0] to buf[len-1], are `p`. -/
structure Pending (s : State) (p : List Byte) : Prop where
  len : s.len.toNat = p.length
  bytes : ∀ i, i < p.length → s.buf.read i = p[i]?

theorem Pending.length_lt {s : State} {p : List Byte} (h : Pending s p) : p.length < 64 := by
  have := h.len; have := s.len.isLt; omega

/-- A byte that does not complete a block. -/
theorem Pending.absorb_lt {s : State} {p : List Byte} (h : Pending s p) (b : Byte) (hl : p.length < 63) :
    Pending (absorbByte s b) (p ++ [b]) ∧ (absorbByte s b).cv = s.cv ∧ (absorbByte s b).epoch = s.epoch := by
  have hne : s.len ≠ 63#6 := fun e => by have := len_eq_63.1 e; have := h.len; omega
  refine ⟨⟨?_, fun i hi => ?_⟩, ?_⟩
  · rw [absorbByte_len]; simp [h.len]; omega
  · rw [absorbByte_buf, h.len]
    simp at hi
    by_cases e : i = p.length
    · subst e; simp
    · rw [Memory.read_write_other _ _ e, h.bytes i (by omega), List.getElem?_append_left (by omega)]
  · rw [absorbByte_of_ne hne]; simp

/-- The byte that completes a block. -/
theorem Pending.absorb_eq {s : State} {p : List Byte} (h : Pending s p) (b : Byte) (hl : p.length = 63) :
    Pending (absorbByte s b) [] ∧ (absorbByte s b).cv = TRANSFORM s.cv (blockAt (p ++ [b]) 0) ∧
      (absorbByte s b).epoch = s.epoch + 1 := by
  have he : s.len = 63#6 := len_eq_63.2 (by rw [h.len, hl])
  refine ⟨⟨?_, fun i hi => by simp at hi⟩, ?_⟩
  · rw [absorbByte_len, he]; rfl
  · have key : bufBlock ((s.setTotal (s.total + 1#64)).setBuf (s.buf.write s.len.toNat b)) = blockAt (p ++ [b]) 0 := by
      unfold bufBlock blockAt
      congr 1; funext i
      simp only [bufByte, setBuf_buf, h.len, hl]
      by_cases e : i.val = 63
      · rw [e]; simp [List.getD, hl]
      · have : i.val < p.length := by omega
        rw [Memory.read_write_other _ _ e, h.bytes _ (by omega)]
        simp [List.getD, List.getElem?_append_left this, this]
    rw [absorbByte_of_eq he, setLen_cv, runTransform_cv, setLen_epoch, runTransform_epoch, key]
    exact ⟨congrArg (TRANSFORM · _) (by simp), by simp⟩

theorem blockAt_append_zero (q l : List Byte) (h : q.length = 64) : blockAt (q ++ l) 0 = blockAt q 0 := by
  unfold blockAt; congr 1; funext i
  simp only [List.getD, List.getElem?_append_left (show 64 * 0 + i.val < q.length by omega)]

theorem blockAt_append_succ (q l : List Byte) (h : q.length = 64) (j : Nat) :
    blockAt (q ++ l) (j + 1) = blockAt l j := by
  unfold blockAt; congr 1; funext i
  simp only [List.getD, List.getElem?_append_right (show q.length ≤ 64 * (j + 1) + i.val by omega)]
  rw [show 64 * (j + 1) + i.val - q.length = 64 * j + i.val by omega]

theorem foldBlocks_append (cv : Chain) (q l : List Byte) (n : Nat) (h : q.length = 64) :
    foldBlocks cv (q ++ l) (n + 1) = foldBlocks (TRANSFORM cv (blockAt q 0)) l n := by
  unfold foldBlocks
  rw [List.range_succ_eq_map, List.foldl_cons, List.foldl_map, blockAt_append_zero q l h]
  simp only [Nat.succ_eq_add_one, blockAt_append_succ q l h]

/-- Any run of bytes: what is pending afterwards, what CV is, and how many TRANSFORMs ran. -/
theorem Pending.absorbBytes {s : State} {p : List Byte} (h : Pending s p) (bs : List Byte) :
    Pending (absorbBytes s bs) ((p ++ bs).drop (64 * ((p ++ bs).length / 64))) ∧
      (absorbBytes s bs).cv = foldBlocks s.cv (p ++ bs) ((p ++ bs).length / 64) ∧
      (absorbBytes s bs).epoch = s.epoch + (p ++ bs).length / 64 := by
  have hp := h.length_lt
  induction bs generalizing s p with
  | nil =>
    have : p.length / 64 = 0 := by omega
    simp [this, foldBlocks, h]
  | cons b bs ih =>
    rw [absorbBytes_cons]
    by_cases hl : p.length = 63
    · obtain ⟨h1, h2, h3⟩ := h.absorb_eq b hl
      obtain ⟨g1, g2, g3⟩ := ih h1 (by simp)
      have hq : (p ++ [b]).length = 64 := by simp [hl]
      have e : p ++ b :: bs = (p ++ [b]) ++ bs := by simp
      have e2 : ((p ++ [b]) ++ bs).length / 64 = bs.length / 64 + 1 := by rw [List.length_append, hq]; omega
      rw [e, e2, foldBlocks_append _ _ _ _ hq, ← h2, Nat.mul_add, List.drop_append, List.drop_of_length_le (by omega),
        hq, g2, g3, h3]
      simp only [List.nil_append] at g1 ⊢
      exact ⟨by simpa using g1, by simp, by omega⟩
    · obtain ⟨h1, h2, h3⟩ := h.absorb_lt b (by omega)
      have := ih h1 (by simp; omega)
      rw [h2, h3] at this
      simpa using this

end Sys2Proof.Machine
end

