-- ==== Sys2Proof/Laws/PerInstr.lean ====
section
/-! SUPPORT. The statements made for every instruction, one lemma for each constructor of Instr. -/

namespace Sys2Proof.Laws

/-- Decoding the encoding of an instruction, as a word of its format and as bytes, gives the instruction back. -/
def RoundTrip.Statement (i : Instr) : Prop := decode (encode i) = .ok i ∧ decodeBytes (encodeBytes i) = .ok i

theorem RoundTrip.nop (data : Byte) : RoundTrip.Statement (.nop data) := by
  unfold RoundTrip.Statement; revert data; decide +kernel
theorem RoundTrip.init (data : Byte) : RoundTrip.Statement (.init data) := by
  unfold RoundTrip.Statement; revert data; decide +kernel
theorem RoundTrip.absorb (data : Byte) : RoundTrip.Statement (.absorb data) := by
  unfold RoundTrip.Statement; revert data; decide +kernel
theorem RoundTrip.finalize (data : Byte) : RoundTrip.Statement (.finalize data) := by
  unfold RoundTrip.Statement; revert data; decide +kernel

theorem RoundTrip.step0 : RoundTrip.Statement .step0 := ⟨rfl, rfl⟩
theorem RoundTrip.step1 : RoundTrip.Statement .step1 := ⟨rfl, rfl⟩
theorem RoundTrip.step2 : RoundTrip.Statement .step2 := ⟨rfl, rfl⟩
theorem RoundTrip.step3 : RoundTrip.Statement .step3 := ⟨rfl, rfl⟩
theorem RoundTrip.step4 : RoundTrip.Statement .step4 := ⟨rfl, rfl⟩
theorem RoundTrip.step5 : RoundTrip.Statement .step5 := ⟨rfl, rfl⟩
theorem RoundTrip.step6 : RoundTrip.Statement .step6 := ⟨rfl, rfl⟩
theorem RoundTrip.step7 : RoundTrip.Statement .step7 := ⟨rfl, rfl⟩
theorem RoundTrip.step8 : RoundTrip.Statement .step8 := ⟨rfl, rfl⟩
theorem RoundTrip.step9 : RoundTrip.Statement .step9 := ⟨rfl, rfl⟩
theorem RoundTrip.step10 : RoundTrip.Statement .step10 := ⟨rfl, rfl⟩
theorem RoundTrip.step11 : RoundTrip.Statement .step11 := ⟨rfl, rfl⟩
theorem RoundTrip.step12 : RoundTrip.Statement .step12 := ⟨rfl, rfl⟩
theorem RoundTrip.step13 : RoundTrip.Statement .step13 := ⟨rfl, rfl⟩
theorem RoundTrip.step14 : RoundTrip.Statement .step14 := ⟨rfl, rfl⟩
theorem RoundTrip.step15 : RoundTrip.Statement .step15 := ⟨rfl, rfl⟩
theorem RoundTrip.step16 : RoundTrip.Statement .step16 := ⟨rfl, rfl⟩
theorem RoundTrip.step17 : RoundTrip.Statement .step17 := ⟨rfl, rfl⟩
theorem RoundTrip.step18 : RoundTrip.Statement .step18 := ⟨rfl, rfl⟩
theorem RoundTrip.step19 : RoundTrip.Statement .step19 := ⟨rfl, rfl⟩
theorem RoundTrip.step20 : RoundTrip.Statement .step20 := ⟨rfl, rfl⟩
theorem RoundTrip.step21 : RoundTrip.Statement .step21 := ⟨rfl, rfl⟩
theorem RoundTrip.step22 : RoundTrip.Statement .step22 := ⟨rfl, rfl⟩
theorem RoundTrip.step23 : RoundTrip.Statement .step23 := ⟨rfl, rfl⟩
theorem RoundTrip.step24 : RoundTrip.Statement .step24 := ⟨rfl, rfl⟩
theorem RoundTrip.step25 : RoundTrip.Statement .step25 := ⟨rfl, rfl⟩
theorem RoundTrip.step26 : RoundTrip.Statement .step26 := ⟨rfl, rfl⟩
theorem RoundTrip.step27 : RoundTrip.Statement .step27 := ⟨rfl, rfl⟩
theorem RoundTrip.step28 : RoundTrip.Statement .step28 := ⟨rfl, rfl⟩
theorem RoundTrip.step29 : RoundTrip.Statement .step29 := ⟨rfl, rfl⟩
theorem RoundTrip.step30 : RoundTrip.Statement .step30 := ⟨rfl, rfl⟩
theorem RoundTrip.step31 : RoundTrip.Statement .step31 := ⟨rfl, rfl⟩
theorem RoundTrip.step32 : RoundTrip.Statement .step32 := ⟨rfl, rfl⟩
theorem RoundTrip.step33 : RoundTrip.Statement .step33 := ⟨rfl, rfl⟩
theorem RoundTrip.step34 : RoundTrip.Statement .step34 := ⟨rfl, rfl⟩
theorem RoundTrip.step35 : RoundTrip.Statement .step35 := ⟨rfl, rfl⟩
theorem RoundTrip.step36 : RoundTrip.Statement .step36 := ⟨rfl, rfl⟩
theorem RoundTrip.step37 : RoundTrip.Statement .step37 := ⟨rfl, rfl⟩
theorem RoundTrip.step38 : RoundTrip.Statement .step38 := ⟨rfl, rfl⟩
theorem RoundTrip.step39 : RoundTrip.Statement .step39 := ⟨rfl, rfl⟩
theorem RoundTrip.step40 : RoundTrip.Statement .step40 := ⟨rfl, rfl⟩
theorem RoundTrip.step41 : RoundTrip.Statement .step41 := ⟨rfl, rfl⟩
theorem RoundTrip.step42 : RoundTrip.Statement .step42 := ⟨rfl, rfl⟩
theorem RoundTrip.step43 : RoundTrip.Statement .step43 := ⟨rfl, rfl⟩
theorem RoundTrip.step44 : RoundTrip.Statement .step44 := ⟨rfl, rfl⟩
theorem RoundTrip.step45 : RoundTrip.Statement .step45 := ⟨rfl, rfl⟩
theorem RoundTrip.step46 : RoundTrip.Statement .step46 := ⟨rfl, rfl⟩
theorem RoundTrip.step47 : RoundTrip.Statement .step47 := ⟨rfl, rfl⟩

end Sys2Proof.Laws
end

