-- ==== Sys2Proof/Laws/Primitives.lean ====
section
/-! SUPPORT. One spec lemma for each word primitive: what it is as a bit-vector operation, and bit by bit. -/

namespace Sys2Proof.Machine

/-- The sum on integers cut to 32 bits is the wrap-around sum of the words. -/
theorem ADD32_eq (a b : Word) : ADD32 a b = a + b := by
  apply BitVec.eq_of_toNat_eq; simp [ADD32]

@[simp] theorem ADD32_zero (a : Word) : ADD32 a 0#32 = a := by simp [ADD32_eq]

/-- Inside its contract ROTL32 is the or of the two logical shifts. -/
theorem ROTL32_eq (v : Word) {s : Nat} (h1 : 1 ≤ s) (h2 : s ≤ 31) :
    ROTL32 v s = (v <<< s) ||| (v >>> (32 - s)) := by
  simp [ROTL32, shiftOk, h1, h2]

theorem getLsbD_F (b c d : Word) {j : Nat} (hj : j < 32) :
    (F b c d).getLsbD j = ((b.getLsbD j && c.getLsbD j) || (!b.getLsbD j && d.getLsbD j)) := by
  simp [F, OR32, AND32, NOT32, hj]

theorem getLsbD_G (b c d : Word) (j : Nat) :
    (G b c d).getLsbD j = ((b.getLsbD j && (c.getLsbD j || d.getLsbD j)) || (c.getLsbD j && d.getLsbD j)) := by
  simp [G, OR32, AND32]

theorem getLsbD_H (b c d : Word) (j : Nat) :
    (H b c d).getLsbD j = ((b.getLsbD j ^^ c.getLsbD j) ^^ d.getLsbD j) := by
  simp [H, XOR32]

end Sys2Proof.Machine
end

