-- ==== Sys2Proof/Laws/Run.lean ====
section
/-! SUPPORT. Everything one command word, one machine step and a run of command words can do, said once. -/

namespace Sys2Proof.Machine

/-- Every instruction answers a next state (R200). -/
theorem exec_next (i : Instr) (s : State) : ∃ t, exec i s = .next t := by cases i <;> exact ⟨_, rfl⟩

/-- What a command word does, by its `op` bits. -/
theorem exec_cmd_cases (w : BitVec 10) (s : State) :
    ((w.extractLsb' 8 2).toNat = 0 ∧ exec (decodeCmd w) s = .next s) ∨
    ((w.extractLsb' 8 2).toNat = 1 ∧ exec (decodeCmd w) s = .next (contextReset s)) ∨
    ((w.extractLsb' 8 2).toNat = 2 ∧ exec (decodeCmd w) s = .next (absorbByte s (w.extractLsb' 0 8))) ∨
    ((w.extractLsb' 8 2).toNat = 3 ∧
      exec (decodeCmd w) s = .next (markDone (absorbBytes s (paddingOf s.total)))) := by
  have hl := (w.extractLsb' 8 2).isLt
  unfold decodeCmd
  simp only
  generalize (w.extractLsb' 8 2).toNat = n at *
  rcases n with _ | _ | _ | _ | n
  · exact .inl ⟨rfl, rfl⟩
  · exact .inr (.inl ⟨rfl, rfl⟩)
  · exact .inr (.inr (.inl ⟨rfl, rfl⟩))
  · exact .inr (.inr (.inr ⟨rfl, rfl⟩))
  · omega

theorem exec_wordAbsorb (b : Byte) (s : State) : exec (decodeCmd (wordAbsorb b)) s = .next (absorbByte s b) := by
  have : decodeCmd (wordAbsorb b) = .absorb b := by revert b; decide +kernel
  rw [this]; rfl

/-- ABSORB_SEQ is the run of ABSORB_BYTEs. -/
theorem runWords_absorbSeq (bs : List Byte) (s : State) : runWords (absorbSeq bs) s = .next (absorbBytes s bs) := by
  induction bs generalizing s with
  | nil => rfl
  | cons b bs ih =>
    rw [show absorbSeq (b :: bs) = wordAbsorb b :: absorbSeq bs from rfl, runWords_cons_next (exec_wordAbsorb b s), ih]
    rfl

/-- A run goes on where its first part ended. -/
theorem runWords_append_next {xs : List (BitVec 10)} {s t : State} (h : runWords xs s = .next t)
    (ys : List (BitVec 10)) : runWords (xs ++ ys) s = runWords ys t := by
  induction xs generalizing s with
  | nil => cases h; rfl
  | cons x xs ih =>
    obtain ⟨u, hu⟩ := exec_next (decodeCmd x) s
    rw [List.cons_append, runWords_cons_next hu]
    exact ih (by rwa [runWords_cons_next hu] at h)

/-- An idle engine that samples a presented word executes it. -/
theorem step_presented {s : State} {p : PortSample} {rest : List PortSample} (hs : s.seq = .idle)
    (hi : s.inputs = p :: rest) (hr : p.reset = false) (hv : p.cmdValid = true) :
    step s = exec (decodeCmd p.cmd) (s.setInputs rest) := by
  simp [step, fetch, resetAsserted, fetchNoReset, hs, hi, hr, hv]

/-- Inside a TRANSFORM the machine executes the step its index selects. -/
theorem step_round {s : State} {t : BitVec 6} {i : Instr} (hs : s.seq = .round t) (hr : resetAsserted s = false)
    (hd : decode (.step t) = .ok i) : step s = exec i (s.setSeq (nextSeq t)) := by
  simp [step, fetch, fetchNoReset, hs, hr, hd]

theorem core_run_zero (s : State) : Host.Core.run Sys2Proof.core 0 s = .next s := rfl

/-- A run of the machine goes on from the next state. -/
theorem core_run_next {s t : State} (h : step s = .next t) (n : Nat) :
    Host.Core.run Sys2Proof.core (n + 1) s = Host.Core.run Sys2Proof.core n t := by
  have : Sys2Proof.core.step s = .next t := h
  simp only [Host.Core.run, this]

end Sys2Proof.Machine
end

