-- ==== Sys2Proof/Tests/Slice0.lean ====
section
/-! SUPPORT. The model's own tests: the checks refuse ill-formed terms, written-out words decode, one or two values of the
spec for each instruction, and for each statement that has hypotheses a state and operands that meet them. -/

namespace Sys2Proof.Tests

open Sys2Proof Sys2Proof.Machine

/-! ### Ill-formed terms are refused -/

/-- R54: the step indexes 48 and 63 select no step, 47 does; every command word selects one (R53). -/
theorem test_step_index_wellFormed :
    (Encoded.step 48#6).wellFormed = false ∧ (Encoded.step 63#6).wellFormed = false ∧
    (Encoded.step 47#6).wellFormed = true ∧ (Encoded.cmd 0x0AB#10).wellFormed = true := by decide

/-- R47: only the spelling with zero data bits is canonical. -/
theorem test_canonical_spelling :
    (Instr.nop 0xAB#8).canonical = false ∧ (Instr.init 1#8).canonical = false ∧ (Instr.finalize 0xFF#8).canonical = false ∧
    (Instr.finalize 0#8).canonical = true ∧ (Instr.absorb 0xFF#8).canonical = true := by decide

/-- R63: the shifts 0 and 32 are outside the contract, 1 and 31 inside. -/
theorem test_shift_contract : shiftOk 0 = false ∧ shiftOk 32 = false ∧ shiftOk 1 = true ∧ shiftOk 31 = true := by decide

/-- R54, log 1: bytes that are no instruction are rejected by name. -/
theorem test_bytes_rejected :
    decodeBytes [48#8] = .error (.noSuchStep 48#6) ∧ decodeBytes [63#8] = .error (.noSuchStep 63#6) ∧
    decodeBytes [64#8] = .error .strayBits ∧ decodeBytes [0#8, 4#8] = .error .strayBits ∧
    decodeBytes [] = .error (.badLength 0) ∧ decodeBytes [0#8, 0#8, 0#8] = .error (.badLength 3) :=
  ⟨rfl, rfl, rfl, rfl, rfl, rfl⟩

/-- Storages out of order, with a repeat, or with an index past 63 are not canonical. -/
theorem test_storage_wf :
    ¬ Memory.wf [(1, 0#8), (0, 0#8)] ∧ ¬ Memory.wf [(5, 0#8), (5, 1#8)] ∧ ¬ Memory.wf [(64, 0#8)] ∧
    Memory.wf [(0, 7#8), (63, 0#8)] := by decide

/-- A sequencer at 48 is not legal (R20); ABSORB after FINALIZE and FINALIZE twice are misuse (R197). -/
theorem test_misuse_refused :
    ¬ (Sequencer.round 48#6).legal ∧ noMisuse false [0x300#10, 0x261#10] = false ∧
    noMisuse false [0x300#10, 0x300#10] = false ∧ noMisuse false [0x261#10, 0x300#10, 0x100#10, 0x300#10] = true := by
  decide

/-! ### Words written out from the encodings of R47 and R48 -/

theorem test_decode_command_words :
    decode (.cmd 0b0000000000#10) = .ok (.nop 0x00#8) ∧ decode (.cmd 0b0010101011#10) = .ok (.nop 0xAB#8) ∧
    decode (.cmd 0b0100000000#10) = .ok (.init 0x00#8) ∧ decode (.cmd 0b1001100001#10) = .ok (.absorb 0x61#8) ∧
    decode (.cmd 0b1100000000#10) = .ok (.finalize 0x00#8) ∧ decode (.cmd 0b1111111111#10) = .ok (.finalize 0xFF#8) :=
  ⟨rfl, rfl, rfl, rfl, rfl, rfl⟩

theorem test_decode_round1_words :
  decode (.step 0b000000#6) = .ok .step0 ∧
  decode (.step 0b000001#6) = .ok .step1 ∧
  decode (.step 0b000010#6) = .ok .step2 ∧
  decode (.step 0b000011#6) = .ok .step3 ∧
  decode (.step 0b000100#6) = .ok .step4 ∧
  decode (.step 0b000101#6) = .ok .step5 ∧
  decode (.step 0b000110#6) = .ok .step6 ∧
  decode (.step 0b000111#6) = .ok .step7 ∧
  decode (.step 0b001000#6) = .ok .step8 ∧
  decode (.step 0b001001#6) = .ok .step9 ∧
  decode (.step 0b001010#6) = .ok .step10 ∧
  decode (.step 0b001011#6) = .ok .step11 ∧
  decode (.step 0b001100#6) = .ok .step12 ∧
  decode (.step 0b001101#6) = .ok .step13 ∧
  decode (.step 0b001110#6) = .ok .step14 ∧
  decode (.step 0b001111#6) = .ok .step15 := by
  repeat' constructor

theorem test_decode_round2_words :
  decode (.step 0b010000#6) = .ok .step16 ∧
  decode (.step 0b010001#6) = .ok .step17 ∧
  decode (.step 0b010010#6) = .ok .step18 ∧
  decode (.step 0b010011#6) = .ok .step19 ∧
  decode (.step 0b010100#6) = .ok .step20 ∧
  decode (.step 0b010101#6) = .ok .step21 ∧
  decode (.step 0b010110#6) = .ok .step22 ∧
  decode (.step 0b010111#6) = .ok .step23 ∧
  decode (.step 0b011000#6) = .ok .step24 ∧
  decode (.step 0b011001#6) = .ok .step25 ∧
  decode (.step 0b011010#6) = .ok .step26 ∧
  decode (.step 0b011011#6) = .ok .step27 ∧
  decode (.step 0b011100#6) = .ok .step28 ∧
  decode (.step 0b011101#6) = .ok .step29 ∧
  decode (.step 0b011110#6) = .ok .step30 ∧
  decode (.step 0b011111#6) = .ok .step31 := by
  repeat' constructor

theorem test_decode_round3_words :
  decode (.step 0b100000#6) = .ok .step32 ∧
  decode (.step 0b100001#6) = .ok .step33 ∧
  decode (.step 0b100010#6) = .ok .step34 ∧
  decode (.step 0b100011#6) = .ok .step35 ∧
  decode (.step 0b100100#6) = .ok .step36 ∧
  decode (.step 0b100101#6) = .ok .step37 ∧
  decode (.step 0b100110#6) = .ok .step38 ∧
  decode (.step 0b100111#6) = .ok .step39 ∧
  decode (.step 0b101000#6) = .ok .step40 ∧
  decode (.step 0b101001#6) = .ok .step41 ∧
  decode (.step 0b101010#6) = .ok .step42 ∧
  decode (.step 0b101011#6) = .ok .step43 ∧
  decode (.step 0b101100#6) = .ok .step44 ∧
  decode (.step 0b101101#6) = .ok .step45 ∧
  decode (.step 0b101110#6) = .ok .step46 ∧
  decode (.step 0b101111#6) = .ok .step47 := by
  repeat' constructor

/-! ### The 48 steps: the trace of TRANSFORM on "abc" (spec 95, section 5), one row at a time -/

/-- The work words of the block of "abc" (spec 95, section 5). -/
def abcWords : WorkWords :=
  #v[0x80636261#32, 0#32, 0#32, 0#32, 0#32, 0#32, 0#32, 0#32, 0#32, 0#32, 0#32, 0#32, 0#32, 0#32, 0x18#32, 0#32]

/-- The working registers after one instruction on the "abc" words. -/
def workAfter (i : Instr) (w : Chain) : Option Chain :=
  match exec i ((State.reset.setWork w).setX abcWords) with
  | .next t => some t.work
  | _ => none

theorem test_step0 : workAfter .step0 ⟨0x67452301#32, 0xEFCDAB89#32, 0x98BADCFE#32, 0x10325476#32⟩ =
    some ⟨0x031B1304#32, 0xEFCDAB89#32, 0x98BADCFE#32, 0x10325476#32⟩ := by decide
theorem test_step1 : workAfter .step1 ⟨0x031B1304#32, 0xEFCDAB89#32, 0x98BADCFE#32, 0x10325476#32⟩ =
    some ⟨0x031B1304#32, 0xEFCDAB89#32, 0x98BADCFE#32, 0xEE123855#32⟩ := by decide
theorem test_step2 : workAfter .step2 ⟨0x031B1304#32, 0xEFCDAB89#32, 0x98BADCFE#32, 0xEE123855#32⟩ =
    some ⟨0x031B1304#32, 0xEFCDAB89#32, 0xD38454E4#32, 0xEE123855#32⟩ := by decide
theorem test_step3 : workAfter .step3 ⟨0x031B1304#32, 0xEFCDAB89#32, 0xD38454E4#32, 0xEE123855#32⟩ =
    some ⟨0x031B1304#32, 0xF66D8F45#32, 0xD38454E4#32, 0xEE123855#32⟩ := by decide
theorem test_step4 : workAfter .step4 ⟨0x031B1304#32, 0xF66D8F45#32, 0xD38454E4#32, 0xEE123855#32⟩ =
    some ⟨0xE98A3AC6#32, 0xF66D8F45#32, 0xD38454E4#32, 0xEE123855#32⟩ := by decide
theorem test_step5 : workAfter .step5 ⟨0xE98A3AC6#32, 0xF66D8F45#32, 0xD38454E4#32, 0xEE123855#32⟩ =
    some ⟨0xE98A3AC6#32, 0xF66D8F45#32, 0xD38454E4#32, 0x0F435CF0#32⟩ := by decide
theorem test_step6 : workAfter .step6 ⟨0xE98A3AC6#32, 0xF66D8F45#32, 0xD38454E4#32, 0x0F435CF0#32⟩ =
    some ⟨0xE98A3AC6#32, 0xF66D8F45#32, 0x97854E65#32, 0x0F435CF0#32⟩ := by decide
theorem test_step7 : workAfter .step7 ⟨0xE98A3AC6#32, 0xF66D8F45#32, 0x97854E65#32, 0x0F435CF0#32⟩ =
    some ⟨0xE98A3AC6#32, 0x613B2BC8#32, 0x97854E65#32, 0x0F435CF0#32⟩ := by decide
theorem test_step8 : workAfter .step8 ⟨0xE98A3AC6#32, 0x613B2BC8#32, 0x97854E65#32, 0x0F435CF0#32⟩ =
    some ⟨0xC65CC9B7#32, 0x613B2BC8#32, 0x97854E65#32, 0x0F435CF0#32⟩ := by decide
theorem test_step9 : workAfter .step9 ⟨0xC65CC9B7#32, 0x613B2BC8#32, 0x97854E65#32, 0x0F435CF0#32⟩ =
    some ⟨0xC65CC9B7#32, 0x613B2BC8#32, 0x97854E65#32, 0x6E365830#32⟩ := by decide
theorem test_step10 : workAfter .step10 ⟨0xC65CC9B7#32, 0x613B2BC8#32, 0x97854E65#32, 0x6E365830#32⟩ =
    some ⟨0xC65CC9B7#32, 0x613B2BC8#32, 0x15D2EEF5#32, 0x6E365830#32⟩ := by decide
theorem test_step11 : workAfter .step11 ⟨0xC65CC9B7#32, 0x613B2BC8#32, 0x15D2EEF5#32, 0x6E365830#32⟩ =
    some ⟨0xC65CC9B7#32, 0xA7D13ACB#32, 0x15D2EEF5#32, 0x6E365830#32⟩ := by decide
theorem test_step12 : workAfter .step12 ⟨0xC65CC9B7#32, 0xA7D13ACB#32, 0x15D2EEF5#32, 0x6E365830#32⟩ =
    some ⟨0xA299A540#32, 0xA7D13ACB#32, 0x15D2EEF5#32, 0x6E365830#32⟩ := by decide
theorem test_step13 : workAfter .step13 ⟨0xA299A540#32, 0xA7D13ACB#32, 0x15D2EEF5#32, 0x6E365830#32⟩ =
    some ⟨0xA299A540#32, 0xA7D13ACB#32, 0x15D2EEF5#32, 0x04E19293#32⟩ := by decide
theorem test_step14 : workAfter .step14 ⟨0xA299A540#32, 0xA7D13ACB#32, 0x15D2EEF5#32, 0x04E19293#32⟩ =
    some ⟨0xA299A540#32, 0xA7D13ACB#32, 0x24BAADCB#32, 0x04E19293#32⟩ := by decide
theorem test_step15 : workAfter .step15 ⟨0xA299A540#32, 0xA7D13ACB#32, 0x24BAADCB#32, 0x04E19293#32⟩ =
    some ⟨0xA299A540#32, 0xDA717395#32, 0x24BAADCB#32, 0x04E19293#32⟩ := by decide
theorem test_step16 : workAfter .step16 ⟨0xA299A540#32, 0xDA717395#32, 0x24BAADCB#32, 0x04E19293#32⟩ =
    some ⟨0x1389A66C#32, 0xDA717395#32, 0x24BAADCB#32, 0x04E19293#32⟩ := by decide
theorem test_step17 : workAfter .step17 ⟨0x1389A66C#32, 0xDA717395#32, 0x24BAADCB#32, 0x04E19293#32⟩ =
    some ⟨0x1389A66C#32, 0xDA717395#32, 0x24BAADCB#32, 0x43B67F2E#32⟩ := by decide
theorem test_step18 : workAfter .step18 ⟨0x1389A66C#32, 0xDA717395#32, 0x24BAADCB#32, 0x43B67F2E#32⟩ =
    some ⟨0x1389A66C#32, 0xDA717395#32, 0xDD3D21A5#32, 0x43B67F2E#32⟩ := by decide
theorem test_step19 : workAfter .step19 ⟨0x1389A66C#32, 0xDA717395#32, 0xDD3D21A5#32, 0x43B67F2E#32⟩ =
    some ⟨0x1389A66C#32, 0x228B5116#32, 0xDD3D21A5#32, 0x43B67F2E#32⟩ := by decide
theorem test_step20 : workAfter .step20 ⟨0x1389A66C#32, 0x228B5116#32, 0xDD3D21A5#32, 0x43B67F2E#32⟩ =
    some ⟨0x8E5C895D#32, 0x228B5116#32, 0xDD3D21A5#32, 0x43B67F2E#32⟩ := by decide
theorem test_step21 : workAfter .step21 ⟨0x8E5C895D#32, 0x228B5116#32, 0xDD3D21A5#32, 0x43B67F2E#32⟩ =
    some ⟨0x8E5C895D#32, 0x228B5116#32, 0xDD3D21A5#32, 0x8ABF3B85#32⟩ := by decide
theorem test_step22 : workAfter .step22 ⟨0x8E5C895D#32, 0x228B5116#32, 0xDD3D21A5#32, 0x8ABF3B85#32⟩ =
    some ⟨0x8E5C895D#32, 0x228B5116#32, 0xBD68A784#32, 0x8ABF3B85#32⟩ := by decide
theorem test_step23 : workAfter .step23 ⟨0x8E5C895D#32, 0x228B5116#32, 0xBD68A784#32, 0x8ABF3B85#32⟩ =
    some ⟨0x8E5C895D#32, 0x4EC68171#32, 0xBD68A784#32, 0x8ABF3B85#32⟩ := by decide
theorem test_step24 : workAfter .step24 ⟨0x8E5C895D#32, 0x4EC68171#32, 0xBD68A784#32, 0x8ABF3B85#32⟩ =
    some ⟨0xBE6D33DB#32, 0x4EC68171#32, 0xBD68A784#32, 0x8ABF3B85#32⟩ := by decide
theorem test_step25 : workAfter .step25 ⟨0xBE6D33DB#32, 0x4EC68171#32, 0xBD68A784#32, 0x8ABF3B85#32⟩ =
    some ⟨0xBE6D33DB#32, 0x4EC68171#32, 0xBD68A784#32, 0x75CB1DF4#32⟩ := by decide
theorem test_step26 : workAfter .step26 ⟨0xBE6D33DB#32, 0x4EC68171#32, 0xBD68A784#32, 0x75CB1DF4#32⟩ =
    some ⟨0xBE6D33DB#32, 0x4EC68171#32, 0x74661D2D#32, 0x75CB1DF4#32⟩ := by decide
theorem test_step27 : workAfter .step27 ⟨0xBE6D33DB#32, 0x4EC68171#32, 0x74661D2D#32, 0x75CB1DF4#32⟩ =
    some ⟨0xBE6D33DB#32, 0x0323E3B7#32, 0x74661D2D#32, 0x75CB1DF4#32⟩ := by decide
theorem test_step28 : workAfter .step28 ⟨0xBE6D33DB#32, 0x0323E3B7#32, 0x74661D2D#32, 0x75CB1DF4#32⟩ =
    some ⟨0x7296594C#32, 0x0323E3B7#32, 0x74661D2D#32, 0x75CB1DF4#32⟩ := by decide
theorem test_step29 : workAfter .step29 ⟨0x7296594C#32, 0x0323E3B7#32, 0x74661D2D#32, 0x75CB1DF4#32⟩ =
    some ⟨0x7296594C#32, 0x0323E3B7#32, 0x74661D2D#32, 0x4E7E1748#32⟩ := by decide
theorem test_step30 : workAfter .step30 ⟨0x7296594C#32, 0x0323E3B7#32, 0x74661D2D#32, 0x4E7E1748#32⟩ =
    some ⟨0x7296594C#32, 0x0323E3B7#32, 0x3DD42422#32, 0x4E7E1748#32⟩ := by decide
theorem test_step31 : workAfter .step31 ⟨0x7296594C#32, 0x0323E3B7#32, 0x3DD42422#32, 0x4E7E1748#32⟩ =
    some ⟨0x7296594C#32, 0x8E531B8F#32, 0x3DD42422#32, 0x4E7E1748#32⟩ := by decide
theorem test_step32 : workAfter .step32 ⟨0x7296594C#32, 0x8E531B8F#32, 0x3DD42422#32, 0x4E7E1748#32⟩ =
    some ⟨0xFE66819A#32, 0x8E531B8F#32, 0x3DD42422#32, 0x4E7E1748#32⟩ := by decide
theorem test_step33 : workAfter .step33 ⟨0xFE66819A#32, 0x8E531B8F#32, 0x3DD42422#32, 0x4E7E1748#32⟩ =
    some ⟨0xFE66819A#32, 0x8E531B8F#32, 0x3DD42422#32, 0x73824016#32⟩ := by decide
theorem test_step34 : workAfter .step34 ⟨0xFE66819A#32, 0x8E531B8F#32, 0x3DD42422#32, 0x73824016#32⟩ =
    some ⟨0xFE66819A#32, 0x8E531B8F#32, 0x2F4E3583#32, 0x73824016#32⟩ := by decide
theorem test_step35 : workAfter .step35 ⟨0xFE66819A#32, 0x8E531B8F#32, 0x2F4E3583#32, 0x73824016#32⟩ =
    some ⟨0xFE66819A#32, 0xFD9FCFEB#32, 0x2F4E3583#32, 0x73824016#32⟩ := by decide
theorem test_step36 : workAfter .step36 ⟨0xFE66819A#32, 0xFD9FCFEB#32, 0x2F4E3583#32, 0x73824016#32⟩ =
    some ⟨0x74A13DC8#32, 0xFD9FCFEB#32, 0x2F4E3583#32, 0x73824016#32⟩ := by decide
theorem test_step37 : workAfter .step37 ⟨0x74A13DC8#32, 0xFD9FCFEB#32, 0x2F4E3583#32, 0x73824016#32⟩ =
    some ⟨0x74A13DC8#32, 0xFD9FCFEB#32, 0x2F4E3583#32, 0x99E6AF11#32⟩ := by decide
theorem test_step38 : workAfter .step38 ⟨0x74A13DC8#32, 0xFD9FCFEB#32, 0x2F4E3583#32, 0x99E6AF11#32⟩ =
    some ⟨0x74A13DC8#32, 0xFD9FCFEB#32, 0x03F2B578#32, 0x99E6AF11#32⟩ := by decide
theorem test_step39 : workAfter .step39 ⟨0x74A13DC8#32, 0xFD9FCFEB#32, 0x03F2B578#32, 0x99E6AF11#32⟩ =
    some ⟨0x74A13DC8#32, 0x71A2AD97#32, 0x03F2B578#32, 0x99E6AF11#32⟩ := by decide
theorem test_step40 : workAfter .step40 ⟨0x74A13DC8#32, 0x71A2AD97#32, 0x03F2B578#32, 0x99E6AF11#32⟩ =
    some ⟨0x798F0B3E#32, 0x71A2AD97#32, 0x03F2B578#32, 0x99E6AF11#32⟩ := by decide
theorem test_step41 : workAfter .step41 ⟨0x798F0B3E#32, 0x71A2AD97#32, 0x03F2B578#32, 0x99E6AF11#32⟩ =
    some ⟨0x798F0B3E#32, 0x71A2AD97#32, 0x03F2B578#32, 0x3F5D0629#32⟩ := by decide
theorem test_step42 : workAfter .step42 ⟨0x798F0B3E#32, 0x71A2AD97#32, 0x03F2B578#32, 0x3F5D0629#32⟩ =
    some ⟨0x798F0B3E#32, 0x71A2AD97#32, 0xEA0CCD51#32, 0x3F5D0629#32⟩ := by decide
theorem test_step43 : workAfter .step43 ⟨0x798F0B3E#32, 0x71A2AD97#32, 0xEA0CCD51#32, 0x3F5D0629#32⟩ =
    some ⟨0x798F0B3E#32, 0xACBF46AD#32, 0xEA0CCD51#32, 0x3F5D0629#32⟩ := by decide
theorem test_step44 : workAfter .step44 ⟨0x798F0B3E#32, 0xACBF46AD#32, 0xEA0CCD51#32, 0x3F5D0629#32⟩ =
    some ⟨0x12BC25A3#32, 0xACBF46AD#32, 0xEA0CCD51#32, 0x3F5D0629#32⟩ := by decide
theorem test_step45 : workAfter .step45 ⟨0x12BC25A3#32, 0xACBF46AD#32, 0xEA0CCD51#32, 0x3F5D0629#32⟩ =
    some ⟨0x12BC25A3#32, 0xACBF46AD#32, 0xEA0CCD51#32, 0x8D405204#32⟩ := by decide
theorem test_step46 : workAfter .step46 ⟨0x12BC25A3#32, 0xACBF46AD#32, 0xEA0CCD51#32, 0x8D405204#32⟩ =
    some ⟨0x12BC25A3#32, 0xACBF46AD#32, 0x4F4FE461#32, 0x8D405204#32⟩ := by decide
theorem test_step47 : workAfter .step47 ⟨0x12BC25A3#32, 0xACBF46AD#32, 0x4F4FE461#32, 0x8D405204#32⟩ =
    some ⟨0x12BC25A3#32, 0x630A7626#32, 0x4F4FE461#32, 0x8D405204#32⟩ := by decide

/-! ### TRANSFORM, whose value on the counting block fixes the order of the work words (spec 42, R156) -/

theorem test_transform_counting_block :
    TRANSFORM Config.md4IV (Vector.ofFn fun i : Fin 64 => BitVec.ofNat 8 i.val) =
      ⟨0x4ECABFD4#32, 0xA26EF3A6#32, 0xC90C1563#32, 0xDB599A46#32⟩ := by decide +kernel

/-! ### The four commands -/

/-- A context with the given elements, its buffer holding `len` zero bytes, as INIT leaves CV. -/
def zeroContext (total : BitVec 64) (len : BitVec 6) : State :=
  ((State.reset.setTotal total).setLen len).setBuf ((List.range len.toNat).map fun i => (i, 0#8))

/-- What a test looks at after one instruction. -/
def after (i : Instr) (s : State) : Option (Chain × BitVec 64 × BitVec 6 × Bool) :=
  match exec i s with
  | .next t => some (t.cv, t.total, t.len, t.done)
  | _ => none

/-- R160: a NOP with non-zero data bits changes nothing. -/
theorem test_nop : after (.nop 0xAB#8) ((zeroContext 7#64 7#6).setDone true) = some (Config.md4IV, 7#64, 7#6, true) := by
  decide

/-- R161: INIT clears everything a message left. -/
theorem test_init : after (.init 0xFF#8) (((zeroContext 7#64 7#6).setDone true).setCv ⟨1#32, 2#32, 3#32, 4#32⟩) =
    some (Config.md4IV, 0#64, 0#6, false) := by decide

/-- Spec 95, program P2, its first ABSORB: the byte is stored at index 0 and CV stays. -/
theorem test_absorb_first_byte : after (.absorb 0x61#8) State.reset = some (Config.md4IV, 1#64, 1#6, false) := by
  decide

/-- Spec 95, section 7, second corner case: the 64th byte runs one TRANSFORM while total wraps. -/
theorem test_absorb_last_byte_and_wrap : after (.absorb 0x00#8) (zeroContext 0xFFFFFFFFFFFFFFFF#64 63#6) =
    some (⟨0x015155EF#32, 0x2E5F67AB#32, 0x3681C98D#32, 0x7447AB15#32⟩, 0#64, 0#6, false) := by decide +kernel

/-- Spec 95, program P1: FINALIZE of the empty message. -/
theorem test_finalize_empty_message : after (.finalize 0x00#8) State.reset =
    some (⟨0xE0CFD631#32, 0x31E96AD1#32, 0xD7593CB7#32, 0xC089C0E0#32⟩, 64#64, 0#6, true) := by decide +kernel

/-- Spec 95, section 7, third corner case: two TRANSFORMs, total wraps during the padding; the digest is
a67c9a90ce92ed6539a3adadd091660f. -/
theorem test_finalize_two_blocks_and_wrap :
    (match exec (.finalize 0x00#8) (zeroContext 0xFFFFFFFFFFFFFFF8#64 56#6) with
     | .next t => some (digest t, t.total, t.len, t.done)
     | _ => none) =
    some ([0xa6#8, 0x7c#8, 0x9a#8, 0x90#8, 0xce#8, 0x92#8, 0xed#8, 0x65#8, 0x39#8, 0xa3#8, 0xad#8, 0xad#8, 0xd0#8, 0x91#8,
      0x66#8, 0x0f#8], 64#64, 0#6, true) := by decide +kernel

/-- R193: ABSORB_STR takes the characters 0x20 to 0x7E and no other. -/
theorem test_absorb_str :
    absorbStr ['a', 'b'] = some [0x261#10, 0x262#10] ∧ absorbStr ['a', '\n'] = none ∧ absorbStr [] = some [] := by
  decide

/-! ### A step runs the placed instruction as the first one after reset -/

theorem test_first_step_after_reset :
    (∃ t, step (State.reset.withFetchWord 16 0x261) = .next t) ∧ (∃ t, step (State.reset.withFetchWord 6 47) = .next t) :=
  ⟨⟨_, rfl⟩, ⟨_, rfl⟩⟩

/-! ### Hypotheses that can be met: for each statement with hypotheses, a state and operands that meet them, each clause at
a boundary -/

theorem test_meets_CommandWordsDecodeByOpcode :
    0x0FF#10 &&& 0x300#10 = 0x000#10 ∧ 0x1FF#10 &&& 0x300#10 = 0x100#10 ∧ 0x200#10 &&& 0x300#10 = 0x200#10 ∧
    0x3FF#10 &&& 0x300#10 = 0x300#10 := by decide

theorem test_meets_EveryEncodingHasOneMeaning :
    decode (.cmd 0x3FF#10) = .ok (.finalize 0xFF#8) ∧ decode (.step 47#6) = .ok .step47 := ⟨rfl, rfl⟩

theorem test_meets_OnlyStepIndexesFrom48AreRejected : (47#6).toNat < 48 ∧ 48 ≤ (48#6).toNat ∧ 48 ≤ (63#6).toNat := by decide

theorem test_meets_RotationMovesEveryBit :
    (∃ s j, (1 ≤ s ∧ s ≤ 31 ∧ j < 32) ∧ s = 1 ∧ j = 31) ∧ ∃ s j, (1 ≤ s ∧ s ≤ 31 ∧ j < 32) ∧ s = 31 ∧ j = 0 :=
  ⟨⟨1, 31, by decide⟩, ⟨31, 0, by decide⟩⟩

theorem test_meets_BitwiseLogicBitByBit : ∃ j, j < 32 ∧ (0x80000000#32).getLsbD j = true := ⟨31, by decide⟩

theorem test_meets_AuxiliaryFunctionsBitByBit : ∃ j, j < 32 ∧ (0x00000001#32).getLsbD j = true := ⟨0, by decide⟩

theorem test_meets_StepFunctionsRotateTheWrappedSum : ∃ s t, 1 ≤ s ∧ s ≤ 31 ∧ s = 1 ∧ 1 ≤ t ∧ t ≤ 31 ∧ t = 31 :=
  ⟨1, 31, by decide⟩

theorem test_meets_StepsWriteOnlyTheDestination :
    (∃ t : Fin 48, decode (.step (BitVec.ofNat 6 t.val)) = .ok .step0 ∧ t.val % 4 ≠ 1 ∧ t.val % 4 ≠ 2 ∧ t.val % 4 ≠ 3) ∧
    ∃ t : Fin 48, decode (.step (BitVec.ofNat 6 t.val)) = .ok .step47 ∧ t.val % 4 ≠ 0 :=
  ⟨⟨0, rfl, by decide⟩, ⟨47, rfl, by decide⟩⟩

theorem test_meets_StepOperandsFromIndexBits : ∃ r q, r < 3 ∧ r = 0 ∧ q < 3 ∧ q = 2 := ⟨0, 2, by decide⟩

theorem test_meets_DecodeIsLittleEndian :
    (∃ b : Block, b[0] = 0x61#8 ∧ b[1] = 0x62#8 ∧ b[2] = 0x63#8 ∧ b[3] = 0x80#8) ∧
    ∃ b : Block, ∀ i : Fin 64, b[i] = BitVec.ofNat 8 i.val :=
  ⟨⟨blockAt [0x61#8, 0x62#8, 0x63#8, 0x80#8] 0, by decide⟩,
   ⟨Vector.ofFn fun i : Fin 64 => BitVec.ofNat 8 i.val, by decide⟩⟩

theorem test_meets_FortyNineStepsMakeOneTransform : resetAsserted (zeroContext 0#64 0#6) = false ∧ 0 < 49 ∧ 48 < 49 := by decide

theorem test_meets_TransformOnTheStateIsThePureFunction : (zeroContext 63#64 63#6).len.toNat = 63 := by decide

theorem test_meets_AbsorbStoresAByteAndTransformsFullBlocks :
    (zeroContext 63#64 63#6).len.toNat = 63 ∧ (zeroContext 62#64 62#6).len.toNat ≠ 63 ∧
    (zeroContext 0#64 0#6).len.toNat ≠ 63 := by decide

theorem test_meets_AbsorbChangesOneByte :
    (62 ≠ (zeroContext 63#64 63#6).len.toNat) ∧ (63 ≠ (zeroContext 62#64 62#6).len.toNat) ∧
    (zeroContext 62#64 62#6).len.toNat ≠ 63 := by decide

theorem test_meets_CounterWrapsSilently :
    let s := zeroContext 0xFFFFFFFFFFFFFFFF#64 63#6
    s.total = 0xFFFFFFFFFFFFFFFF#64 ∧ s.len.toNat = s.total.toNat % 64 := by decide

/-- With 55 bytes pending FINALIZE stores 9 bytes, at 55 to 63, and index 54 is outside. -/
theorem test_meets_FinalizeStoresOnlyThePadding :
    let s := zeroContext 55#64 55#6
    ∀ k, k < padLen (s.total.toNat % 64) + 8 → 54 ≠ (s.len.toNat + k) % 64 := by decide

theorem test_meets_PadLengthRule : 0 < 56 ∧ 55 < 56 ∧ 56 ≤ 56 ∧ 56 < 64 ∧ 56 ≤ 63 ∧ 63 < 64 := by decide

theorem test_meets_PaddingSequenceRule :
    ∃ n i j, 1 ≤ n ∧ n = 64 ∧ 1 ≤ i ∧ i ≤ n - 1 ∧ i = 63 ∧ j ≤ 7 ∧ j = 7 := ⟨64, 63, 7, by decide⟩

/-- The invariant holds in a context with `n` zero bytes pending, at both sides of the padding rule's boundary. -/
theorem test_meets_FinalizeEndState :
    (EngineInv (zeroContext 55#64 55#6) ∧ (zeroContext 55#64 55#6).total.toNat % 64 ≤ 55) ∧
    EngineInv (zeroContext 56#64 56#6) ∧ 56 ≤ (zeroContext 56#64 56#6).total.toNat % 64 :=
  ⟨⟨⟨by decide, by decide, by decide, trivial⟩, by decide⟩, ⟨by decide, by decide, by decide, trivial⟩, by decide⟩

theorem test_meets_BitCountOverflowLosesTheTopBits :
    let s := zeroContext 0x2000000000000000#64 0#6
    2 ^ 61 ≤ s.total.toNat ∧ s.cv = Config.md4IV ∧ s.len = 0#6 ∧ s.done = false ∧ s.total = 0x2000000000000000#64 := by
  decide

theorem test_meets_IgnoredDataBitsDoNotMatter :
    (0x2FF#10).extractLsb' 8 2 = 0b10#2 ∧
    ((0x0AB#10).extractLsb' 8 2 = (0x000#10).extractLsb' 8 2 ∧ (0x0AB#10).extractLsb' 8 2 ≠ 0b10#2) ∧
    ((0x1FF#10).extractLsb' 8 2 = (0x100#10).extractLsb' 8 2 ∧ (0x1FF#10).extractLsb' 8 2 ≠ 0b10#2) ∧
    ((0x301#10).extractLsb' 8 2 = (0x300#10).extractLsb' 8 2 ∧ (0x301#10).extractLsb' 8 2 ≠ 0b10#2) := by decide

/-- CV changes under INIT, under the ABSORB that completes a block, and under FINALIZE. -/
theorem test_meets_OnlyThreeCommandsWriteTheChainingWords :
    (∃ s t, exec (.init 0#8) s = .next t ∧ t.cv ≠ s.cv) ∧ (∃ s t, exec (.absorb 0#8) s = .next t ∧ t.cv ≠ s.cv) ∧
    ∃ s t, exec (.finalize 0#8) s = .next t ∧ t.cv ≠ s.cv :=
  ⟨⟨State.reset.setCv ⟨0#32, 0#32, 0#32, 0#32⟩, _, rfl, by decide⟩,
   ⟨zeroContext 63#64 63#6, _, rfl, by decide +kernel⟩, ⟨State.reset, _, rfl, by decide +kernel⟩⟩

theorem test_meets_TheCounterCountsAbsorbedBytes :
    (∃ t, exec (.init 0#8) State.reset = .next t) ∧ (∃ t, exec (.absorb 0#8) State.reset = .next t) ∧
    (∃ t, exec (.finalize 0#8) State.reset = .next t) ∧ ∃ t, exec .step47 State.reset = .next t :=
  ⟨⟨_, rfl⟩, ⟨_, rfl⟩, ⟨_, rfl⟩, ⟨_, rfl⟩⟩

theorem test_meets_DigestSerialisesTheChainingWords :
    ∃ s : State, s.cv = ⟨0x7A0148A4#32, 0x52D821AF#32, 0xE80AC15F#32, 0x9D72A67A#32⟩ := ⟨State.reset.setCv _, rfl⟩

theorem test_meets_StepRunsTheDecodedInstruction :
    (let s := State.reset.setInputs [presentWord 0x3FF#10]
     s.seq = .idle ∧ s.inputs = [presentWord 0x3FF#10] ∧ (presentWord 0x3FF#10).reset = false ∧
       (presentWord 0x3FF#10).cmdValid = true ∧ decode (.cmd (presentWord 0x3FF#10).cmd) = .ok (.finalize 0xFF#8)) ∧
    (let s := State.reset.setSeq (.round 47#6)
     s.seq = .round 47#6 ∧ resetAsserted s = false ∧ decode (.step 47#6) = .ok .step47) ∧
    (let s := State.reset.setSeq (.round 0#6)
     s.seq = .round 0#6 ∧ resetAsserted s = false ∧ decode (.step 0#6) = .ok .step0) ∧
    ((State.reset.setSeq .addBack).seq = .addBack ∧ resetAsserted (State.reset.setSeq .addBack) = false) :=
  ⟨⟨rfl, rfl, rfl, rfl, rfl⟩, ⟨rfl, rfl, rfl⟩, ⟨rfl, rfl, rfl⟩, rfl, rfl⟩

/-- The clauses of StepRunsTheDecodedInstruction for a placed step index: with reset asserted at the port, and without. -/
theorem test_meets_StepRunsAPlacedStep :
    (∃ s : State, resetAsserted s = true ∧ decode (.step 47#6) = .ok .step47) ∧
    ∃ s : State, resetAsserted s = false ∧ decode (.step 0#6) = .ok .step0 :=
  ⟨⟨State.reset.setInputs [presentReset true 0x261#10], rfl, rfl⟩, ⟨State.reset, rfl, rfl⟩⟩

theorem test_meets_NothingIsAcceptedWhenIdleOrBusy :
    (State.reset.seq = .idle ∧ State.reset.inputs = []) ∧
    (presentNothing.reset = false ∧ presentNothing.cmdValid = false) ∧
    (∃ s t : State, s.seq ≠ .idle ∧ resetAsserted s = false ∧ step s = .next t ∧ s.inputs ≠ []) ∧
    ∃ s t : State, s.seq = .addBack ∧ resetAsserted s = false ∧ step s = .next t :=
  ⟨⟨rfl, rfl⟩, ⟨rfl, rfl⟩,
   ⟨(State.reset.setSeq (.round 47#6)).setInputs [presentWord 0x261#10], _, by decide, rfl, rfl, by decide⟩,
   ⟨State.reset.setSeq .addBack, _, rfl, rfl, rfl⟩⟩

theorem test_meets_ResetWinsOverEverything :
    ∃ s : State, s.seq = .round 5#6 ∧ s.inputs = presentReset true 0x261#10 :: [presentWord 0x300#10] :=
  ⟨(State.reset.setSeq (.round 5#6)).setInputs [presentReset true 0x261#10, presentWord 0x300#10], rfl, rfl⟩

theorem test_meets_ResetValues (s : State) :
    ∃ u v w : State, u = State.reset ∧ v = hardwareReset s ∧ exec (.init 0#8) s = .next w := ⟨_, _, _, rfl, rfl, rfl⟩

theorem test_meets_AWordStreamIsAFoldOfCommands : State.reset.seq = .idle := rfl

theorem test_meets_TheEngineRaisesNothing :
    (State.reset.setSeq (.round 47#6)).seq.legal ∧ State.reset.seq.legal ∧ (State.reset.setSeq .addBack).seq.legal :=
  ⟨by show (47#6).toNat < 48; decide, trivial, trivial⟩

theorem test_meets_StepIndexesFrom48AreRefused :
    (let s := State.reset.setSeq (.round 48#6)
     s.seq = .round 48#6 ∧ 48 ≤ (48#6).toNat ∧ resetAsserted s = false) ∧
    let s := State.reset.setSeq (.round 63#6)
    s.seq = .round 63#6 ∧ 48 ≤ (63#6).toNat ∧ resetAsserted s = false :=
  ⟨⟨rfl, by decide, rfl⟩, rfl, by decide, rfl⟩

/-- A state that meets the invariant and steps, an ABSORB presented. -/
theorem test_meets_EveryStepKeepsTheInvariant :
    ∃ s t : State, EngineInv s ∧ step s = .next t ∧ s.inputs = [presentWord 0x261#10] :=
  ⟨(zeroContext 62#64 62#6).setInputs [presentWord 0x261#10], _,
   ⟨by decide, by decide, by decide, trivial⟩, rfl, rfl⟩

theorem test_meets_OccupancyIsTotalMod64 :
    (zeroContext 0xFFFFFFFFFFFFFFFF#64 63#6).len.toNat = (zeroContext 0xFFFFFFFFFFFFFFFF#64 63#6).total.toNat % 64 ∧
    State.reset.len.toNat = State.reset.total.toNat % 64 := by decide

theorem test_meets_StorageIsCanonical :
    ∃ m n : Memory, m.wf ∧ n.wf ∧ (∀ a, m.read a = n.read a) ∧ m ≠ [] ∧ 63 < 64 :=
  ⟨[(63, 1#8)], [(63, 1#8)], by decide, by decide, fun _ => rfl, by decide, by decide⟩

/-- Two engines with one context that differ in the working registers, the stale bytes and the epoch. -/
theorem test_meets_TransientStateIsNeverObservable :
    ∃ s t : State, SameContext s t ∧ s.len = 2#6 ∧ s.work ≠ t.work ∧ s.buf ≠ t.buf ∧ s.epoch ≠ t.epoch :=
  ⟨(zeroContext 2#64 2#6).setWork ⟨0#32, 0#32, 0#32, 0#32⟩,
   (((zeroContext 2#64 2#6).setWork ⟨1#32, 0#32, 0#32, 0#32⟩).setBuf [(0, 0#8), (1, 0#8), (9, 9#8)]).setEpoch 5,
   ⟨rfl, rfl, rfl, rfl, fun i h => ⟨0#8, by revert i; decide⟩⟩, rfl, by decide, by decide, by decide⟩

theorem test_meets_StateAfterAbsorbingAMessage : Fresh State.reset := ⟨rfl, rfl, rfl, rfl⟩

theorem test_meets_ChunkingDoesNotMatter :
    (∃ t, runWords (absorbSeq [0x61#8, 0x62#8]) State.reset = .next t) ∧
    ∀ w ∈ [0x261#10, 0x0AB#10, 0x262#10], cmdKind w = .absorb ∨ cmdKind w = .nop :=
  ⟨⟨_, rfl⟩, by decide⟩

/-- A stream with two computations ends with digest_valid = 1. -/
theorem test_meets_AValidDigestIsTheDigestOfTheMessage :
    Fresh State.reset ∧ noMisuse false [0x300#10, 0x000#10, 0x100#10, 0x261#10, 0x300#10] = true ∧
    ∃ t, runWords [0x300#10, 0x000#10, 0x100#10, 0x261#10, 0x300#10] State.reset = .next t ∧ digestValid t = true :=
  ⟨⟨rfl, rfl, rfl, rfl⟩, by decide, _, rfl, by decide⟩

theorem test_meets_TheDigestStandsUntilTheNextCommand :
    (∀ w ∈ [0x000#10, 0x0FF#10], cmdKind w = .nop) ∧
    ∃ s t : State, s.seq = .idle ∧ s.inputs = [presentNothing, presentWord 0x0FF#10] ∧
      (∀ p ∈ s.inputs, p.reset = false ∧ (p.cmdValid = false ∨ cmdKind p.cmd = .nop)) ∧ step s = .next t :=
  ⟨by decide, State.reset.setInputs [presentNothing, presentWord 0x0FF#10], _, rfl, rfl, by decide, rfl⟩

theorem test_meets_DigestOperationIsTotal : State.reset.seq = .idle ∧ resetAsserted State.reset = false := ⟨rfl, rfl⟩

/-- FINALIZE after reset, then a whole computation with NOPs in it. -/
theorem grammar_stream : IsStream [0x300#10, 0x100#10, 0x261#10, 0x000#10, 0x300#10, 0x000#10] :=
  ⟨[0x300#10], [[0x100#10, 0x261#10, 0x000#10, 0x300#10, 0x000#10]], rfl,
   .inr ⟨[], 0x300#10, [], rfl, by decide, rfl, by decide⟩,
   fun c hc => by
     obtain rfl := List.mem_singleton.1 hc
     exact ⟨0x100#10, _, rfl, rfl, [0x261#10, 0x000#10], 0x300#10, [0x000#10], rfl, by decide, rfl, by decide⟩⟩

/-- The ABSORB, and the FINALIZE after it, of that stream, each with the run of the words before it; and a stream that does
meet a FINALIZE while done = 1. -/
theorem test_meets_GrammarStreamsCommitNoMisuse :
    State.reset.done = false ∧
    (∃ u, IsStream ([0x300#10, 0x100#10] ++ 0x261#10 :: [0x000#10, 0x300#10, 0x000#10]) ∧
      runWords [0x300#10, 0x100#10] State.reset = .next u ∧ cmdKind 0x261#10 = .absorb) ∧
    (∃ u, IsStream ([0x300#10, 0x100#10, 0x261#10, 0x000#10] ++ 0x300#10 :: [0x000#10]) ∧
      runWords [0x300#10, 0x100#10, 0x261#10, 0x000#10] State.reset = .next u ∧ cmdKind 0x300#10 = .finalize) ∧
    ∃ u, noMisuse State.reset.done [0x300#10, 0x300#10] = false ∧ runWords [0x300#10] State.reset = .next u ∧
      u.done = true :=
  ⟨rfl, ⟨_, grammar_stream, rfl, rfl⟩, ⟨_, grammar_stream, rfl, rfl⟩, _, rfl, rfl, rfl⟩

theorem test_meets_TransformsPerMessage : ∃ t, runWords (digestWords [0x61#8]) State.reset = .next t := ⟨_, rfl⟩

end Sys2Proof.Tests
end

section
/-! PROOFS. What one instruction, one command word and one machine step can do, said once; then the statements of
10_state.md about the architectural state. -/

namespace Sys2Proof.Machine

/-! ### What an instruction and a command word do -/

/-- What an instruction can do: each command its own operation, and any of the 48 steps a write of the working registers
alone (R84). -/
inductive ExecNext (s : State) : Instr → State → Prop where
  | nop (d : Byte) : ExecNext s (.nop d) s
  | init (d : Byte) : ExecNext s (.init d) (contextReset s)
  | absorb (b : Byte) : ExecNext s (.absorb b) (absorbByte s b)
  | finalize (d : Byte) : ExecNext s (.finalize d) (markDone (absorbBytes s (paddingOf s.total)))
  | step {i : Instr} {n : BitVec 6} (w : Chain) (hi : encode i = .step n) : ExecNext s i (s.setWork w)

theorem execNext_of_exec {i : Instr} {s t : State} (h : exec i s = .next t) : ExecNext s i t := by
  cases i with
  | nop d => cases h; exact .nop d
  | init d => cases h; exact .init d
  | absorb b => cases h; exact .absorb b
  | finalize d => cases h; exact .finalize d
  | _ => cases h; exact .step _ rfl

/-- The state after a command word. -/
def commandNext (w : BitVec 10) (s : State) : State :=
  match cmdKind w with
  | .nop => s
  | .init => contextReset s
  | .absorb => absorbByte s (w.extractLsb' 0 8)
  | .finalize => markDone (absorbBytes s (paddingOf s.total))

/-- A command word always completes, with `commandNext` (R53, R200). -/
theorem exec_decodeCmd (w : BitVec 10) (s : State) : exec (decodeCmd w) s = .next (commandNext w s) := by
  obtain ⟨hop, h⟩ | ⟨hop, h⟩ | ⟨hop, h⟩ | ⟨hop, h⟩ := exec_cmd_cases w s <;>
    simp [h, commandNext, cmdKind, hop]

/-! ### A freshly created context (R25) -/

theorem fresh_reset : Fresh State.reset := ⟨rfl, rfl, rfl, rfl⟩

theorem fresh_contextReset (s : State) : Fresh (contextReset s) := ⟨by simp, by simp, by simp, by simp⟩

theorem fresh_hardwareReset (s : State) : Fresh (hardwareReset s) := ⟨by simp, by simp, by simp, by simp⟩

/-- The serialisation of MD4_IV (R25). -/
theorem chainBytes_md4IV :
    chainBytes Config.md4IV = [0x01#8, 0x23#8, 0x45#8, 0x67#8, 0x89#8, 0xAB#8, 0xCD#8, 0xEF#8, 0xFE#8, 0xDC#8, 0xBA#8,
      0x98#8, 0x76#8, 0x54#8, 0x32#8, 0x10#8] := by decide

/-- Settles O44: each of the three events leaves a fresh context, and both outputs are functions of it. -/
theorem resetValues : Obligations.ResetValues := by
  intro s d
  refine ⟨contextReset s, rfl, fun u hu => ?_⟩
  have hfresh : Fresh u := by
    obtain rfl | rfl | rfl := hu
    · exact fresh_reset
    · exact fresh_hardwareReset s
    · exact fresh_contextReset s
  obtain ⟨hcv, htotal, hlen, hdone⟩ := hfresh
  exact ⟨hcv, htotal, hlen, hdone, (congrArg chainBytes hcv).trans chainBytes_md4IV, hdone⟩

/-! ### `len` follows `total` (R18) -/

theorem Fresh.len_eq {s : State} (h : Fresh s) : s.len.toNat = s.total.toNat % 64 := by
  rw [h.len, h.total]; rfl

/-- A run of bytes advances both counters alike, and 64 divides 2^64. -/
theorem absorbBytes_len_eq {s : State} (h : s.len.toNat = s.total.toNat % 64) (bs : List Byte) :
    (absorbBytes s bs).len.toNat = (absorbBytes s bs).total.toNat % 64 := by
  rw [absorbBytes_len, absorbBytes_total, BitVec.toNat_add, BitVec.toNat_add, BitVec.toNat_ofNat, BitVec.toNat_ofNat]
  omega

theorem commandNext_len_eq (w : BitVec 10) {s : State} (h : s.len.toNat = s.total.toNat % 64) :
    (commandNext w s).len.toNat = (commandNext w s).total.toNat % 64 := by
  unfold commandNext
  cases cmdKind w with
  | nop => exact h
  | init => exact (fresh_contextReset s).len_eq
  | absorb => exact absorbBytes_len_eq h [_]
  | finalize => simpa using absorbBytes_len_eq h _

/-- Settles O50: the three resets are fresh contexts, and every command word keeps the equation. -/
theorem occupancyIsTotalMod64 : Obligations.OccupancyIsTotalMod64 :=
  ⟨fresh_reset.len_eq, fun s => (fresh_hardwareReset s).len_eq,
    fun _ s => ⟨contextReset s, rfl, (fresh_contextReset s).len_eq⟩,
    fun w s h => ⟨commandNext w s, exec_decodeCmd w s, commandNext_len_eq w h⟩⟩

/-! ### Who writes CV and total (R14, R16) -/

theorem absorbByte_cv_of_ne {s : State} (h : s.len ≠ 63#6) (b : Byte) : (absorbByte s b).cv = s.cv := by
  simp [absorbByte_of_ne h]

/-- Settles O38, by the operation each instruction performs. -/
theorem onlyThreeCommandsWriteTheChainingWords : Obligations.OnlyThreeCommandsWriteTheChainingWords := by
  intro i s t h hcv
  cases execNext_of_exec h with
  | nop d => exact absurd rfl hcv
  | init d => exact .inl ⟨d, rfl, contextReset_cv s⟩
  | absorb b =>
    have hlen : s.len = 63#6 := not_not.1 fun hne => hcv (absorbByte_cv_of_ne hne b)
    exact .inr (.inl ⟨b, rfl, len_eq_63.1 hlen⟩)
  | finalize d => exact .inr (.inr ⟨d, rfl⟩)
  | step w hi => exact absurd (setWork_cv s w) hcv

/-- Settles O39, by the operation each instruction performs; FINALIZE absorbs as many bytes as its padding has. -/
theorem theCounterCountsAbsorbedBytes : Obligations.TheCounterCountsAbsorbedBytes := by
  intro i s t h
  cases execNext_of_exec h with
  | nop d => rfl
  | init d => exact contextReset_total s
  | absorb b => simp
  | finalize d => simp [absorbBytes_total, paddingOf_length, Nat.add_assoc]
  | step w hi =>
    split
    · cases hi
    · cases hi
    · cases hi
    · exact setWork_total s w

/-! ### Nothing reads `done` (R19) -/

theorem runTransform_setDone (s : State) (e : Bool) : runTransform (s.setDone e) = (runTransform s).setDone e := by
  have hblock : bufBlock (s.setDone e) = bufBlock s := rfl
  rw [runTransform_eq, runTransform_eq, hblock, setDone_cv]
  generalize TRANSFORM s.cv (bufBlock s) = v
  rfl

theorem absorbByte_setDone (s : State) (e : Bool) (b : Byte) :
    absorbByte (s.setDone e) b = (absorbByte s b).setDone e := by
  by_cases h : s.len = 63#6
  · rw [absorbByte_of_eq h, absorbByte_of_eq (s := s.setDone e) h]
    exact congrArg (State.setLen · 0#6)
      (runTransform_setDone ((s.setTotal (s.total + 1#64)).setBuf (s.buf.write s.len.toNat b)) e)
  · rw [absorbByte_of_ne h, absorbByte_of_ne (s := s.setDone e) h]
    rfl

theorem absorbBytes_setDone (s : State) (e : Bool) (bs : List Byte) :
    absorbBytes (s.setDone e) bs = (absorbBytes s bs).setDone e := by
  induction bs generalizing s with
  | nil => rfl
  | cons b bs ih => rw [absorbBytes_cons, absorbByte_setDone, ih, absorbBytes_cons]

/-- Changing `done` before a command word changes `done` alone after it, as the protocol's `doneAfter` says. -/
theorem commandNext_setDone (w : BitVec 10) (s : State) (e : Bool) :
    commandNext w (s.setDone e) = (commandNext w s).setDone (doneAfter e (cmdKind w)) := by
  unfold commandNext
  cases cmdKind w with
  | nop => rfl
  | init => rfl
  | absorb => exact absorbByte_setDone s e _
  | finalize =>
    simp only [setDone_total, absorbBytes_setDone]
    generalize absorbBytes s (paddingOf s.total) = u
    rfl

theorem commandNext_done (w : BitVec 10) (s : State) : (commandNext w s).done = doneAfter s.done (cmdKind w) := by
  have h := commandNext_setDone w s s.done
  rw [show s.setDone s.done = s from rfl] at h
  rw [h, setDone_done]

/-- Settles O37: a command word commutes with a change of `done`. -/
theorem doneIsWrittenByThreeAndReadByNone : Obligations.DoneIsWrittenByThreeAndReadByNone := by
  refine ⟨fun w s e => ?_, hardwareReset_done, fun _ => rfl, rfl⟩
  refine ⟨commandNext w s, commandNext w (s.setDone e), exec_decodeCmd w s, exec_decodeCmd w _, commandNext_done w s, ?_⟩
  simp [commandNext_setDone]

/-! ### What a machine step can do -/

/-- Everything a step that answers a next state can do: hardware reset; with no reset asserted an idle moment, the word at
the port, the step the sequencer selects, or the four additions. -/
inductive StepNext (s : State) : State → Prop where
  | reset (hr : resetAsserted s = true) : StepNext s (hardwareReset (s.setInputs s.inputs.tail))
  | idle (hr : resetAsserted s = false) (hq : s.seq = .idle) (hv : ∀ p ∈ s.inputs.head?, p.cmdValid = false) :
      StepNext s (s.setInputs s.inputs.tail)
  | command {t : State} {p : PortSample} {rest : List PortSample} (hr : resetAsserted s = false) (hq : s.seq = .idle)
      (hin : s.inputs = p :: rest) (hv : p.cmdValid = true)
      (h : exec (decodeCmd p.cmd) (s.setInputs rest) = .next t) : StepNext s t
  | round {t : State} {k : BitVec 6} {i : Instr} (hr : resetAsserted s = false) (hq : s.seq = .round k)
      (hi : decode (.step k) = .ok i) (h : exec i (s.setSeq (nextSeq k)) = .next t) : StepNext s t
  | addBack (hr : resetAsserted s = false) (hq : s.seq = .addBack) : StepNext s (addBack s)

theorem setInputs_inputs_self (s : State) : s.setInputs s.inputs = s := rfl

/-- Without reset, by where the sequencer stands and what the port shows. -/
theorem stepNext_of_step {s t : State} (h : step s = .next t) : StepNext s t := by
  unfold step fetch at h
  cases hr : resetAsserted s with
  | true => simp only [hr, if_true] at h; cases h; exact .reset hr
  | false =>
    simp only [hr, Bool.false_eq_true, if_false, fetchNoReset] at h
    cases hq : s.seq with
    | addBack => simp only [hq] at h; cases h; exact .addBack hr hq
    | round k =>
      cases hi : decode (.step k) with
      | ok i => simp only [hq, hi] at h; exact .round hr hq hi h
      | error e => simp [hq, hi] at h
    | idle =>
      cases hin : s.inputs with
      | nil =>
        simp only [hq, hin] at h
        cases h
        have hidle := StepNext.idle hr hq (by simp [hin])
        rwa [show s.inputs.tail = s.inputs by rw [hin]; rfl, setInputs_inputs_self] at hidle
      | cons p rest =>
        cases hv : p.cmdValid with
        | true => simp only [hq, hin, hv, if_true] at h; exact .command hr hq hin hv h
        | false =>
          simp only [hq, hin, hv, Bool.false_eq_true, if_false] at h
          cases h
          have hidle := StepNext.idle hr hq (by simp [hin, hv])
          rwa [show s.inputs.tail = rest by rw [hin]; rfl] at hidle

/-! ### The invariant of the machine (R17, R18, R20) -/

/-- The invariant speaks of the storage, the two counters and the sequencer alone. -/
theorem EngineInv.of_same_buffer {s t : State} (h : EngineInv s) (hbuf : t.buf = s.buf) (hlen : t.len = s.len)
    (htotal : t.total = s.total) (hseq : t.seq.legal) : EngineInv t := by
  obtain ⟨hwf, heq, hvalid, -⟩ := h
  exact ⟨hbuf ▸ hwf, by rw [hlen, htotal, heq], by rwa [hbuf, hlen], hseq⟩

theorem Fresh.engineInv {s : State} (h : Fresh s) (hwf : s.buf.wf) (hseq : s.seq.legal) : EngineInv s :=
  ⟨hwf, h.len_eq, fun i hi => by rw [h.len] at hi; exact absurd hi (Nat.not_lt_zero i), hseq⟩

/-- Settles O49: power-up leaves a fresh context with an empty listing. -/
theorem resetMeetsTheInvariant : Obligations.ResetMeetsTheInvariant :=
  fresh_reset.engineInv reset_buf_wf trivial

theorem legal_of_eq_idle {q : Sequencer} (h : q = .idle) : q.legal := h ▸ trivial

@[simp] theorem addBack_total (s : State) : (addBack s).total = s.total := by simp [addBack]
@[simp] theorem addBack_buf (s : State) : (addBack s).buf = s.buf := by simp [addBack]
@[simp] theorem addBack_len (s : State) : (addBack s).len = s.len := by simp [addBack]
@[simp] theorem addBack_seq (s : State) : (addBack s).seq = .idle := by simp [addBack]

theorem absorbByte_seq_legal {s : State} (h : s.seq.legal) (b : Byte) : (absorbByte s b).seq.legal := by
  by_cases hl : s.len = 63#6
  · exact legal_of_eq_idle (by simp [absorbByte_of_eq hl])
  · simpa [absorbByte_of_ne hl] using h

/-- After a write at index `len` every index up to `len` is listed; `len` then advances by one or wraps to 0. -/
theorem absorbByte_valid {s : State} (h : ∀ i, i < s.len.toNat → (s.buf.read i).isSome) (b : Byte) :
    ∀ i, i < (absorbByte s b).len.toNat → ((absorbByte s b).buf.read i).isSome := by
  intro i hi
  have hle : i ≤ s.len.toNat := by
    rw [absorbByte_len, BitVec.toNat_add, BitVec.toNat_ofNat] at hi
    omega
  rw [absorbByte_buf]
  by_cases he : i = s.len.toNat
  · rw [he, Memory.read_write_same]; rfl
  · rw [Memory.read_write_other _ _ he]; exact h i (by omega)

theorem EngineInv.absorbByte {s : State} (h : EngineInv s) (b : Byte) : EngineInv (absorbByte s b) := by
  obtain ⟨hwf, heq, hvalid, hseq⟩ := h
  refine ⟨?_, absorbBytes_len_eq heq [b], absorbByte_valid hvalid b, absorbByte_seq_legal hseq b⟩
  rw [absorbByte_buf]
  exact Memory.write_wf hwf s.len.isLt b

theorem EngineInv.absorbBytes {s : State} (h : EngineInv s) (bs : List Byte) : EngineInv (absorbBytes s bs) := by
  induction bs generalizing s with
  | nil => exact h
  | cons b bs ih => exact ih (h.absorbByte b)

/-- Every instruction keeps the invariant, a step of a TRANSFORM too: it writes working registers only. -/
theorem EngineInv.exec {i : Instr} {s t : State} (hs : EngineInv s) (h : exec i s = .next t) : EngineInv t := by
  cases execNext_of_exec h with
  | nop d => exact hs
  | init d =>
    exact (fresh_contextReset s).engineInv (by simpa using hs.buf_wf) (by simpa using hs.seq_legal)
  | absorb b => exact hs.absorbByte b
  | finalize d =>
    have ha := hs.absorbBytes (paddingOf s.total)
    exact ha.of_same_buffer (by simp) (by simp) (by simp) (by simpa using ha.seq_legal)
  | step w hi => exact hs.of_same_buffer (by simp) (by simp) (by simp) (by simpa using hs.seq_legal)

/-- The step index stops after step 47 (R20). -/
theorem nextSeq_legal {k : BitVec 6} (h : k.toNat < 48) : (nextSeq k).legal := by
  unfold nextSeq
  split
  · trivial
  · next hne =>
    have : k.toNat ≠ 47 := fun e => hne (BitVec.eq_of_toNat_eq e)
    simp only [Sequencer.legal, BitVec.toNat_add, BitVec.toNat_ofNat]
    omega

/-- Settles O48, by what a step can do: each case is a fresh context, an instruction, or writes nothing the invariant
speaks of but the sequencer. -/
theorem everyStepKeepsTheInvariant : Obligations.EveryStepKeepsTheInvariant := by
  intro s t hs h
  have hinputs : ∀ l, EngineInv (s.setInputs l) := fun l =>
    hs.of_same_buffer (by simp) (by simp) (by simp) (by simpa using hs.seq_legal)
  cases stepNext_of_step h with
  | reset hr =>
    exact (fresh_hardwareReset _).engineInv (by simpa using Memory.wf_nil) (legal_of_eq_idle (by simp))
  | idle hr hq hv => exact hinputs _
  | command hr hq hin hv h => exact (hinputs _).exec h
  | round hr hq hi h =>
    have hlegal := hs.seq_legal
    rw [hq] at hlegal
    exact (hs.of_same_buffer (by simp) (by simp) (by simp) (by simpa using nextSeq_legal hlegal)).exec h
  | addBack hr hq => exact hs.of_same_buffer (by simp) (by simp) (by simp) (legal_of_eq_idle (by simp))

/-! ### The transient elements and the stale bytes are never observed (R23) -/

theorem pending_of_bytes {s : State} {n : Nat} {f : Nat → Byte} (hlen : s.len.toNat = n)
    (h : ∀ i, i < n → s.buf.read i = some (f i)) : Pending s ((List.range n).map f) :=
  ⟨by simp [hlen], fun i hi => by
    have hin : i < n := by simpa using hi
    simp [h i hin, hin]⟩

/-- Two engines have one context exactly when CV, total and done agree and the same bytes are pending in both. -/
theorem sameContext_iff_pending {s t : State} :
    SameContext s t ↔ s.cv = t.cv ∧ s.total = t.total ∧ s.done = t.done ∧ ∃ p, Pending s p ∧ Pending t p := by
  constructor
  · rintro ⟨hcv, htotal, hlen, hdone, hbytes⟩
    have hs : ∀ i, i < s.len.toNat → s.buf.read i = some (bufByte s i) := fun i hi => by
      obtain ⟨b, hb, -⟩ := hbytes i hi
      simp [bufByte, hb]
    have ht : ∀ i, i < s.len.toNat → t.buf.read i = some (bufByte s i) := fun i hi => by
      obtain ⟨b, hb, hb'⟩ := hbytes i hi
      simp [bufByte, hb, hb']
    exact ⟨hcv, htotal, hdone, _, pending_of_bytes rfl hs, pending_of_bytes (hlen ▸ rfl) ht⟩
  · rintro ⟨hcv, htotal, hdone, p, hs, ht⟩
    refine ⟨hcv, htotal, BitVec.eq_of_toNat_eq (hs.len.trans ht.len.symm), hdone, fun i hi => ?_⟩
    rw [hs.len] at hi
    exact ⟨p[i], by rw [hs.bytes i hi, List.getElem?_eq_getElem hi], by rw [ht.bytes i hi, List.getElem?_eq_getElem hi]⟩

/-- TRANSFORM reads CV and a block of bytes that the run itself completed (R17), so a run of bytes keeps the agreement. -/
theorem SameContext.absorbBytes {s t : State} (h : SameContext s t) (bs : List Byte) :
    SameContext (absorbBytes s bs) (absorbBytes t bs) := by
  obtain ⟨hcv, htotal, hdone, p, hs, ht⟩ := sameContext_iff_pending.1 h
  obtain ⟨hs', hscv, -⟩ := hs.absorbBytes bs
  obtain ⟨ht', htcv, -⟩ := ht.absorbBytes bs
  refine sameContext_iff_pending.2 ⟨?_, ?_, ?_, _, hs', ht'⟩
  · rw [hscv, htcv, hcv]
  · rw [absorbBytes_total, absorbBytes_total, htotal]
  · rw [absorbBytes_done, absorbBytes_done, hdone]

theorem Fresh.sameContext {s t : State} (hs : Fresh s) (ht : Fresh t) : SameContext s t :=
  ⟨hs.cv.trans ht.cv.symm, hs.total.trans ht.total.symm, hs.len.trans ht.len.symm, hs.done.trans ht.done.symm,
    fun i hi => by rw [hs.len] at hi; exact absurd hi (Nat.not_lt_zero i)⟩

theorem SameContext.markDone {s t : State} (h : SameContext s t) : SameContext (markDone s) (markDone t) := by
  obtain ⟨hcv, htotal, hlen, -, hbytes⟩ := h
  exact ⟨by simpa, by simpa, by simpa, by simp, by simpa⟩

theorem SameContext.commandNext {s t : State} (h : SameContext s t) (w : BitVec 10) :
    SameContext (commandNext w s) (commandNext w t) := by
  unfold Machine.commandNext
  cases cmdKind w with
  | nop => exact h
  | init => exact (fresh_contextReset s).sameContext (fresh_contextReset t)
  | absorb => exact h.absorbBytes [_]
  | finalize => rw [h.total]; exact (h.absorbBytes _).markDone

/-- A run of command words always completes, and the two engines still agree. -/
theorem SameContext.runWords {s t : State} (h : SameContext s t) (ws : List (BitVec 10)) :
    ∃ u v, runWords ws s = .next u ∧ runWords ws t = .next v ∧ SameContext u v := by
  induction ws generalizing s t with
  | nil => exact ⟨s, t, rfl, rfl, h⟩
  | cons w ws ih =>
    rw [runWords_cons_next (exec_decodeCmd w s), runWords_cons_next (exec_decodeCmd w t)]
    exact ih (h.commandNext w)

theorem SameContext.digestBus {s t : State} (h : SameContext s t) : digestBus s = digestBus t := by
  simp only [Machine.digestBus, h.cv]

/-- Settles O52: the agreement is kept along the run, and both outputs are functions of the context. -/
theorem transientStateIsNeverObservable : Obligations.TransientStateIsNeverObservable := by
  intro ws s t h
  obtain ⟨u, v, hu, hv, huv⟩ := h.runWords ws
  exact ⟨u, v, hu, hv, huv, huv.digestBus, huv.done⟩

end Sys2Proof.Machine
end

section
/-! PROOFS. The statement of 20_memory.md about the storage of the block buffer: a canonical listing is determined by what
it reads. -/

namespace Sys2Proof.Machine

/-- In a listing whose indexes strictly rise every cell is the one its index reads: no earlier cell hides it. -/
theorem Memory.read_eq_some_iff_mem {m : Memory} (h : (m.map Prod.fst).Pairwise (· < ·)) {a : Nat} {b : Byte} :
    m.read a = some b ↔ (a, b) ∈ m := by
  induction m with
  | nil => simp
  | cons d m ih =>
    obtain ⟨d, x⟩ := d
    obtain ⟨hlt, hm⟩ := List.pairwise_cons.1 h
    by_cases hda : d = a
    · subst hda
      have hnot : (d, b) ∉ m := fun hmem => Nat.lt_irrefl d (hlt d (List.mem_map_of_mem hmem))
      simp [Memory.read, hnot, eq_comm]
    · simp [Memory.read, hda, Ne.symm hda, ih hm]

/-- Two canonical storages that read alike list the same cells, and a strictly rising list is determined by its
members. -/
theorem Memory.eq_of_read_eq {m n : Memory} (hm : m.wf) (hn : n.wf) (h : ∀ a, m.read a = n.read a) : m = n := by
  have hmem : ∀ c, c ∈ m ↔ c ∈ n := fun (a, b) => by
    rw [← Memory.read_eq_some_iff_mem hm.1, h, Memory.read_eq_some_iff_mem hn.1]
  have rising {l : Memory} (hl : l.wf) : l.Pairwise (InvImage (· < ·) Prod.fst) :=
    (List.pairwise_map (R := (· < ·)) (f := Prod.fst)).1 hl.1
  exact (rising hm).eq_of_mem_iff (rising hn) hmem

theorem Memory.read_write (m : Memory) (a : Nat) (b : Byte) (c : Nat) :
    (m.write a b).read c = if c = a then some b else m.read c := by
  split
  · next h => rw [h, Memory.read_write_same]
  · next h => exact Memory.read_write_other m b h

/-- Settles O51: a canonical storage is determined by its reads; the two laws of a write are those of the buffer. -/
theorem storageIsCanonical : Obligations.StorageIsCanonical :=
  ⟨fun _ _ => Memory.eq_of_read_eq, fun m a b hm ha => ⟨Memory.write_wf hm ha b, Memory.read_write m a b⟩⟩

end Sys2Proof.Machine
end

section
/-! PROOFS. The statements of 30_encoding.md: a command word is the `op` of its kind above its data byte; a step index is
decoded exactly below 48, to an instruction that does what its row of the step table says. -/

namespace Sys2Proof.Machine

/-! ### Command words: `op` above a data byte (R46, R47) -/

/-- The `op` bits of a kind of command (R47). -/
def CmdKind.op : CmdKind → BitVec 2
  | .nop => 0b00#2
  | .init => 0b01#2
  | .absorb => 0b10#2
  | .finalize => 0b11#2

/-- The command of a kind with a data byte. -/
def CmdKind.instr : CmdKind → Byte → Instr
  | .nop => .nop
  | .init => .init
  | .absorb => .absorb
  | .finalize => .finalize

theorem CmdKind.op_injective : Function.Injective CmdKind.op := by
  intro k l
  cases k <;> cases l <;> decide

theorem op_cmdKind (w : BitVec 10) : (cmdKind w).op = w.extractLsb' 8 2 := by
  unfold cmdKind
  generalize w.extractLsb' 8 2 = op
  revert op
  decide

theorem decodeCmd_eq_instr (w : BitVec 10) : decodeCmd w = (cmdKind w).instr (w.extractLsb' 0 8) := by
  unfold decodeCmd cmdKind
  generalize (w.extractLsb' 8 2).toNat = n
  obtain _ | _ | _ | n := n <;> rfl

theorem encode_instr (k : CmdKind) (d : Byte) : encode (k.instr d) = .cmd (k.op ++ d) := by
  cases k <;> rfl

/-- A command word is its two fields (R46). -/
theorem op_append_data (w : BitVec 10) : (cmdKind w).op ++ w.extractLsb' 0 8 = w := by
  rw [op_cmdKind, BitVec.extractLsb'_append_extractLsb'_eq_extractLsb' (by rfl)]
  exact BitVec.extractLsb'_eq_self

theorem encode_decodeCmd (w : BitVec 10) : encode (decodeCmd w) = .cmd w := by
  rw [decodeCmd_eq_instr, encode_instr, op_append_data]

/-- The mask of R47 keeps the `op` bits and clears the data bits. -/
theorem and_opMask (w : BitVec 10) : w &&& 0x300#10 = (cmdKind w).op ++ 0#8 :=
  calc w &&& 0x300#10
    _ = ((cmdKind w).op ++ w.extractLsb' 0 8) &&& (BitVec.allOnes 2 ++ 0#8) := by rw [op_append_data]; rfl
    _ = ((cmdKind w).op &&& BitVec.allOnes 2) ++ (w.extractLsb' 0 8 &&& 0#8) := BitVec.and_append
    _ = (cmdKind w).op ++ 0#8 := by rw [BitVec.and_allOnes, BitVec.and_zero]

/-- The canonical ABSORB word as R47 writes it, a sum. -/
theorem encode_absorb (b : Byte) : encode (.absorb b) = .cmd (0x200#10 + b.setWidth 10) := by
  refine congrArg Encoded.cmd (BitVec.eq_of_toNat_eq ?_)
  have hb := b.isLt
  rw [BitVec.toNat_append, ← Nat.shiftLeft_add_eq_or_of_lt hb, BitVec.toNat_add, BitVec.toNat_setWidth]
  simp only [BitVec.toNat_ofNat, Nat.shiftLeft_eq]
  omega

/-! ### Step indexes (R48, R54, R84) -/

/-- Row t of the step table: the index decodes to an instruction whose encoding it is, and the instruction, written from
its own rule, computes `STEP t` (R84). The 48 rows are compared one by one. -/
theorem decodeStep_row (t : Fin 48) : ∃ i, decodeStep (BitVec.ofNat 6 t.val) = .ok i ∧
    encode i = .step (BitVec.ofNat 6 t.val) ∧ ∀ s, exec i s = .next (s.setWork (STEP t s.work s.X)) := by
  fin_cases t <;> exact ⟨_, rfl, rfl, fun _ => rfl⟩

theorem decodeStep_of_lt {t : BitVec 6} (h : t.toNat < 48) : ∃ i, decodeStep t = .ok i ∧ encode i = .step t := by
  obtain ⟨i, hdecode, hencode, -⟩ := decodeStep_row ⟨t.toNat, h⟩
  exact ⟨i, by simpa using hdecode, by simpa using hencode⟩

theorem decodeStep_of_ge {t : BitVec 6} (h : 48 ≤ t.toNat) : decodeStep t = .error (.noSuchStep t) := by
  revert t
  decide

/-- In a state whose sequencer holds an index that decodes to nothing, and with no reset asserted, `step` refuses. -/
theorem step_round_refused {s : State} {t : BitVec 6} {e : DecodeError} (hs : s.seq = .round t)
    (hr : resetAsserted s = false) (hd : decode (.step t) = .error e) : step s = .refused (.noSuchStep t) := by
  simp [step, fetch, fetchNoReset, hs, hr, hd]

/-! ### Decoding and encoding -/

/-- Settles O3: the round trip of each command holds for every data byte; a step has one encoding, which evaluates. -/
theorem decodeOfEncodeGivesTheInstruction : Obligations.DecodeOfEncodeGivesTheInstruction := by
  intro i
  cases i with
  | nop d => exact Laws.RoundTrip.nop d
  | init d => exact Laws.RoundTrip.init d
  | absorb b => exact Laws.RoundTrip.absorb b
  | finalize d => exact Laws.RoundTrip.finalize d
  | _ => exact ⟨rfl, rfl⟩

/-- Settles O4: a command word is the two fields its instruction keeps; a step index that decodes is below 48. -/
theorem everyEncodingHasOneMeaning : Obligations.EveryEncodingHasOneMeaning := by
  intro e i h
  cases e with
  | cmd w => cases h; exact encode_decodeCmd w
  | step t =>
    obtain hlt | hge := Nat.lt_or_ge t.toNat 48
    · obtain ⟨j, hdecode, hencode⟩ := decodeStep_of_lt hlt
      cases hdecode.symm.trans h
      exact hencode
    · cases (decodeStep_of_ge hge).symm.trans h

/-- Settles O1: masked, the word is the `op` of its kind, and the kind selects the command. -/
theorem commandWordsDecodeByOpcode : Obligations.CommandWordsDecodeByOpcode := by
  refine ⟨fun w => ?_, rfl, rfl, rfl, encode_absorb⟩
  rw [and_opMask, decode, decodeCmd_eq_instr]
  cases cmdKind w <;> simp [CmdKind.op, CmdKind.instr]

/-- Settles O2: each word is a closed term, and the decoder evaluates on it. -/
theorem writtenOutWordsDecode : Obligations.WrittenOutWordsDecode :=
  ⟨rfl, rfl, rfl, rfl, rfl, rfl, rfl, rfl, rfl⟩

/-- Settles O5: the decoder of command words is total, and that of step indexes answers by the bound 48 (R53, R54). -/
theorem onlyStepIndexesFrom48AreRejected : Obligations.OnlyStepIndexesFrom48AreRejected := by
  refine ⟨fun w => ⟨decodeCmd w, rfl⟩, fun t hlt => ?_, fun t => decodeStep_of_ge⟩
  obtain ⟨i, hdecode, -⟩ := decodeStep_of_lt hlt
  exact ⟨i, hdecode⟩

/-- Settles O47: the decoder rejects the index, and `step` refuses what the decoder rejects. -/
theorem stepIndexesFrom48AreRefused : Obligations.StepIndexesFrom48AreRefused :=
  fun _ _ hseq hge hreset => step_round_refused hseq hreset (decodeStep_of_ge hge)

/-- Settles O16, row by row of the step table. -/
theorem everyStepIsItsTableRow : Obligations.EveryStepIsItsTableRow := by
  intro t s
  obtain ⟨i, hdecode, -, hexec⟩ := decodeStep_row t
  exact ⟨i, hdecode, hexec s⟩

/-! ### Ignored data bits (R49) -/

/-- Only ABSORB's meaning depends on more of the word than its kind. -/
theorem commandNext_eq_of_cmdKind_eq {w v : BitVec 10} (h : cmdKind w = cmdKind v) (hne : cmdKind w ≠ .absorb)
    (s : State) : commandNext w s = commandNext v s := by
  unfold commandNext
  rw [← h]
  cases hk : cmdKind w with
  | nop => rfl
  | init => rfl
  | absorb => exact absurd hk hne
  | finalize => rfl

/-- Settles O36: the `op` bits determine the kind, and the kind all but ABSORB's byte. -/
theorem ignoredDataBitsDoNotMatter : Obligations.IgnoredDataBitsDoNotMatter := by
  refine ⟨fun w hop => ⟨w.extractLsb' 0 8, ?_, by simp⟩, fun w v s hop hne => ?_⟩
  · have hk : cmdKind w = .absorb := CmdKind.op_injective ((op_cmdKind w).trans hop)
    rw [decodeCmd_eq_instr, hk]
    rfl
  · have hk : cmdKind w = cmdKind v := CmdKind.op_injective (by rw [op_cmdKind, op_cmdKind, hop])
    have hnot : cmdKind w ≠ .absorb := fun h => hne (by rw [← op_cmdKind, h]; rfl)
    rw [exec_decodeCmd, exec_decodeCmd, commandNext_eq_of_cmdKind_eq hk hnot]

/-! ### The operands of a step from the bits of its index (R50, R79 to R82) -/

/-- Each word order is its own inverse: the identity, the 4 by 4 transpose, the reversal of the four index bits (R82). -/
theorem wordOrder_involutive (fn : RoundFn) : Function.Involutive fun i : Fin 16 => (wordOrder fn)[i] := by
  unfold Function.Involutive
  cases fn <;> decide

theorem stepRow_k_eq_iff {t : Fin 48} {k : Fin 16} :
    (stepRow t).k = k ↔ positionOf t = (wordOrder (roundFnOf t))[k] :=
  (wordOrder_involutive (roundFnOf t)).eq_iff

theorem roundFnOf_eq_of_round_eq {t u : Fin 48} (h : t.val / 16 = u.val / 16) : roundFnOf t = roundFnOf u := by
  unfold roundFnOf
  rw [h]

/-- The one step of round r that reads X[k] stands where the round's word order, its own inverse, has k (R82). -/
theorem existsUnique_step_of_round_reads {r : Nat} (hr : r < 3) (k : Fin 16) :
    ∃! t : Fin 48, t.val / 16 = r ∧ (stepRow t).k = k := by
  have hfirst : 16 * r / 16 = r := by omega
  have hlt : 16 * r < 48 := by omega
  generalize hi : (wordOrder (roundFnOf ⟨16 * r, hlt⟩))[k] = i
  have hreads : ∀ t : Fin 48, (t.val / 16 = r ∧ (stepRow t).k = k) ↔ t.val = 16 * r + i.val := fun t => by
    rw [stepRow_k_eq_iff]
    have hround (h : t.val / 16 = r) : (wordOrder (roundFnOf t))[k] = i := by
      rw [← hi, roundFnOf_eq_of_round_eq (u := ⟨16 * r, hlt⟩) (h.trans hfirst.symm)]
    constructor
    · rintro ⟨h, hpos⟩
      have : t.val % 16 = i.val := congrArg Fin.val (hpos.trans (hround h))
      omega
    · intro h
      have hr' : t.val / 16 = r := by omega
      exact ⟨hr', (Fin.ext (show t.val % 16 = i.val by omega)).trans (hround hr').symm⟩
  exact ⟨⟨16 * r + i.val, by omega⟩, (hreads _).2 rfl, fun t ht => Fin.ext ((hreads t).1 ht)⟩

theorem roundFnOf_eq (t : Fin 48) :
    roundFnOf t = if t.val / 16 = 0 then .FF else if t.val / 16 = 1 then .GG else .HH := by
  unfold roundFnOf
  split
  · next h => simp [h]
  · next h => simp [h]
  · next h0 h1 => rw [if_neg h0, if_neg h1]

theorem operandRegs_eq (p : Fin 4) : operandRegs p =
    if p.val = 0 then (WReg.A, WReg.B, WReg.C, WReg.D) else if p.val = 1 then (.D, .A, .B, .C)
    else if p.val = 2 then (.C, .D, .A, .B) else (.B, .C, .D, .A) := by
  revert p
  decide

theorem patternOf_val (t : Fin 48) : (patternOf t).val = t.val % 4 := Nat.mod_mod_of_dvd t.val (by decide)

/-- The shift of a step by its round and its pattern position, over all 48 steps (R81). -/
theorem stepRow_s_eq (t : Fin 48) : (stepRow t).s =
    ([[3, 7, 11, 19], [3, 5, 9, 13], [3, 9, 11, 15]].getD (t.val / 16) []).getD (t.val % 4) 0 := by
  revert t
  decide

/-- The word index of a step from the bits of its position: itself, the two halves exchanged, the bits reversed, over all
48 steps (R50, R82). -/
theorem stepRow_k_val (t : Fin 48) : (stepRow t).k.val =
    if t.val / 16 = 0 then t.val % 16 else if t.val / 16 = 1 then 4 * (t.val % 16 % 4) + t.val % 16 / 4
    else 8 * (t.val % 16 % 2) + 4 * (t.val % 16 / 2 % 2) + 2 * (t.val % 16 / 4 % 2) + t.val % 16 / 8 := by
  revert t
  decide

/-- The three step functions are one rotated sum: of `a`, the round's auxiliary function, the word and the round's
constant, which is 0 in round 1 (R76 to R78). -/
theorem applyFn_roundFnOf (t : Fin 48) (a b c d x : Word) (n : Nat) : applyFn (roundFnOf t) a b c d x n =
    ROTL32
      (ADD32 (ADD32 (ADD32 a (if t.val / 16 = 0 then F b c d else if t.val / 16 = 1 then G b c d else H b c d)) x)
        (if t.val / 16 = 0 then 0x00000000#32 else if t.val / 16 = 1 then 0x5A827999#32 else 0x6ED9EBA1#32))
      n := by
  rw [roundFnOf_eq]
  split_ifs
  · rw [ADD32_zero]; rfl
  · rfl
  · rfl

/-- Settles O6: the words a round reads by the involution of its order, then each operand by its own table. -/
theorem stepOperandsFromIndexBits : Obligations.StepOperandsFromIndexBits := by
  refine ⟨fun _ => existsUnique_step_of_round_reads, fun t => ?_⟩
  have hregs := operandRegs_eq (patternOf t)
  rw [patternOf_val] at hregs
  exact ⟨roundFnOf_eq t, hregs, stepRow_s_eq t, stepRow_k_val t, fun a b c d x => applyFn_roundFnOf t a b c d x _⟩

end Sys2Proof.Machine
end

section
/-! PROOFS. The statements of 40_word_primitives.md: the adder is the group of integers modulo 2^32, the rotator sends bit j
to bit (j + s) mod 32, the bitwise operations are those of each bit (R61 to R68). -/

namespace Sys2Proof.Machine

/-! ### The rotator (R63, R64) -/

/-- Result bit `i` comes from `s` places below, counted around the word: the left shift brings the bits from `s` up, the
logical right shift the `s` bits that re-enter at the bottom. -/
theorem getLsbD_ROTL32 (v : Word) {s i : Nat} (h1 : 1 ≤ s) (h2 : s ≤ 31) (hi : i < 32) :
    (ROTL32 v s).getLsbD i = v.getLsbD ((i + (32 - s)) % 32) := by
  rw [ROTL32_eq v h1 h2, BitVec.getLsbD_or, BitVec.getLsbD_shiftLeft, BitVec.getLsbD_ushiftRight]
  by_cases hlow : i < s
  · have hfrom : (i + (32 - s)) % 32 = 32 - s + i := by omega
    simp [hlow, hfrom]
  · have hfrom : (i + (32 - s)) % 32 = i - s := by omega
    have htop : v.getLsbD (32 - s + i) = false := BitVec.getLsbD_of_ge v _ (by omega)
    simp [hi, hlow, hfrom, htop]

theorem getLsbD_ROTL32_add_mod (v : Word) {s j : Nat} (h1 : 1 ≤ s) (h2 : s ≤ 31) (hj : j < 32) :
    (ROTL32 v s).getLsbD ((j + s) % 32) = v.getLsbD j := by
  have hback : ((j + s) % 32 + (32 - s)) % 32 = j := by omega
  rw [getLsbD_ROTL32 v h1 h2 (Nat.mod_lt _ (by decide)), hback]

/-- A word whose bits are all the same is the same after any rotation. -/
theorem ROTL32_eq_self_of_bits_eq {v : Word} {b : Bool} (hv : ∀ i, i < 32 → v.getLsbD i = b) {s : Nat} (h1 : 1 ≤ s)
    (h2 : s ≤ 31) : ROTL32 v s = v := by
  refine BitVec.eq_of_getLsbD_eq fun i hi => ?_
  rw [getLsbD_ROTL32 v h1 h2 hi, hv _ (Nat.mod_lt _ (by decide)), hv i hi]

/-- Settles O8: the source of each result bit, read backwards; both corner cases are words of equal bits. -/
theorem rotationMovesEveryBit : Obligations.RotationMovesEveryBit := by
  refine ⟨fun v s h1 h2 => ⟨ROTL32_eq v h1 h2, fun j => getLsbD_ROTL32_add_mod v h1 h2, ?_, ?_⟩, by decide⟩
  · exact ROTL32_eq_self_of_bits_eq (b := false) (fun _ _ => BitVec.getLsbD_zero) h1 h2
  · exact ROTL32_eq_self_of_bits_eq (b := true) (by decide) h1 h2

/-! ### The adder (R61, R62) -/

/-- Settles O7: the adder is the wrap-around sum, whose laws are the library's; an inverse is the negated word. -/
theorem additionIsModulo32Bits : Obligations.AdditionIsModulo32Bits := by
  unfold Obligations.AdditionIsModulo32Bits
  simp only [ADD32_eq]
  exact ⟨BitVec.add_comm, BitVec.add_assoc, fun a => ⟨-a, BitVec.add_right_neg a⟩, BitVec.toNat_add, BitVec.add_zero,
    by decide⟩

/-! ### Bitwise logic (R65 to R68) -/

theorem getLsbD_AND32 (a b : Word) (j : Nat) : (AND32 a b).getLsbD j = (a.getLsbD j && b.getLsbD j) :=
  BitVec.getLsbD_and

theorem getLsbD_OR32 (a b : Word) (j : Nat) : (OR32 a b).getLsbD j = (a.getLsbD j || b.getLsbD j) :=
  BitVec.getLsbD_or

theorem getLsbD_XOR32 (a b : Word) (j : Nat) : (XOR32 a b).getLsbD j = (a.getLsbD j != b.getLsbD j) :=
  BitVec.getLsbD_xor

/-- Inside the word only: above it a word and its complement both read 0. -/
theorem getLsbD_NOT32 (a : Word) {j : Nat} (hj : j < 32) : (NOT32 a).getLsbD j = !a.getLsbD j := by
  simp [NOT32, hj]

theorem XOR32_assoc (a b c : Word) : XOR32 (XOR32 a b) c = XOR32 a (XOR32 b c) := BitVec.xor_assoc a b c

theorem XOR32_comm (a b : Word) : XOR32 a b = XOR32 b a := BitVec.xor_comm a b

theorem NOT32_eq_sub (a : Word) : NOT32 a = 0xFFFFFFFF#32 - a := (BitVec.allOnes_sub_eq_not a).symm

/-- Settles O9, operation by operation. -/
theorem bitwiseLogicBitByBit : Obligations.BitwiseLogicBitByBit :=
  ⟨fun a b j hj => ⟨getLsbD_AND32 a b j, getLsbD_OR32 a b j, getLsbD_XOR32 a b j, getLsbD_NOT32 a hj⟩,
    fun a b c => ⟨XOR32_assoc a b c, XOR32_comm a b⟩, NOT32_eq_sub, by decide⟩

end Sys2Proof.Machine
end

section
/-! PROOFS. The statements of 41_round_logic.md: the auxiliary functions bit by bit (R73 to R75), the step functions as
one rotated sum (R76 to R78), and the 48 steps, each of which writes one working register (R80, R84, R100 to R147). -/

namespace Sys2Proof.Machine

/-! ### The auxiliary functions bit by bit (R73 to R75) -/

/-- F is the selector: a bit of `b` picks the bit of `c` or of `d` (R73). -/
theorem getLsbD_F_eq_ite (b c d : Word) {j : Nat} (hj : j < 32) :
    (F b c d).getLsbD j = if b.getLsbD j then c.getLsbD j else d.getLsbD j := by
  rw [getLsbD_F b c d hj]
  cases b.getLsbD j <;> simp

/-- G is the majority: at least two of the three bits are set (R74). -/
theorem getLsbD_G_eq_majority (b c d : Word) (j : Nat) : (G b c d).getLsbD j =
    decide (2 ≤ (b.getLsbD j).toNat + (c.getLsbD j).toNat + (d.getLsbD j).toNat) := by
  rw [getLsbD_G]
  generalize b.getLsbD j = x, c.getLsbD j = y, d.getLsbD j = z
  revert x y z
  decide

/-- H is the parity: an odd number of the three bits is set (R75). -/
theorem getLsbD_H_eq_parity (b c d : Word) (j : Nat) : (H b c d).getLsbD j =
    decide (((b.getLsbD j).toNat + (c.getLsbD j).toNat + (d.getLsbD j).toNat) % 2 = 1) := by
  rw [getLsbD_H]
  generalize b.getLsbD j = x, c.getLsbD j = y, d.getLsbD j = z
  revert x y z
  decide

/-! ### Their corner cases -/

theorem getLsbD_ones {j : Nat} (hj : j < 32) : (0xFFFFFFFF#32).getLsbD j = true :=
  (BitVec.getLsbD_allOnes (v := 32)).trans (decide_eq_true hj)

theorem F_ones (c d : Word) : F 0xFFFFFFFF#32 c d = c :=
  BitVec.eq_of_getLsbD_eq fun j hj => by rw [getLsbD_F_eq_ite _ _ _ hj, getLsbD_ones hj, if_pos rfl]

theorem F_zero (c d : Word) : F 0#32 c d = d :=
  BitVec.eq_of_getLsbD_eq fun j hj => by simp [getLsbD_F_eq_ite _ _ _ hj]

theorem F_same (b c : Word) : F b c c = c :=
  BitVec.eq_of_getLsbD_eq fun j hj => by rw [getLsbD_F_eq_ite _ _ _ hj, ite_self]

/-- Two equal bits are the majority. -/
theorem G_same (b d : Word) : G b b d = b :=
  BitVec.eq_of_getLsbD_eq fun j _ => by
    rw [getLsbD_G]
    cases b.getLsbD j <;> simp

theorem G_zero (c d : Word) : G 0#32 c d = AND32 c d :=
  BitVec.eq_of_getLsbD_eq fun j _ => by simp [getLsbD_G, getLsbD_AND32]

theorem G_ones (c d : Word) : G 0xFFFFFFFF#32 c d = OR32 c d :=
  BitVec.eq_of_getLsbD_eq fun j hj => by
    rw [getLsbD_G, getLsbD_ones hj, getLsbD_OR32]
    cases c.getLsbD j <;> simp

/-- A count of set bits does not depend on their order. -/
theorem G_swap_first (b c d : Word) : G b c d = G c b d :=
  BitVec.eq_of_getLsbD_eq fun j _ => by
    rw [getLsbD_G_eq_majority, getLsbD_G_eq_majority, Nat.add_comm (b.getLsbD j).toNat]

theorem G_swap_last (b c d : Word) : G b c d = G b d c :=
  BitVec.eq_of_getLsbD_eq fun j _ => by
    rw [getLsbD_G_eq_majority, getLsbD_G_eq_majority, Nat.add_right_comm]

theorem H_same (b d : Word) : H b b d = d := by
  rw [H, XOR32, XOR32, BitVec.xor_self, BitVec.zero_xor]

/-- Settles O10: each clause by its lemma above; the expressions are the definitions, the examples evaluate. -/
theorem auxiliaryFunctionsBitByBit : Obligations.AuxiliaryFunctionsBitByBit :=
  ⟨fun b c d j hj => ⟨getLsbD_F_eq_ite b c d hj, getLsbD_G_eq_majority b c d j, getLsbD_H_eq_parity b c d j⟩,
    fun b c d => ⟨rfl, rfl, rfl, F_ones c d, F_zero c d, F_same b c, G_same b d, G_zero c d, G_ones c d,
      G_swap_first b c d, G_swap_last b c d, H_same b d, H_same 0#32 d⟩,
    by decide⟩

/-! ### The step functions (R76 to R78) -/

/-- Adding to a sum that was cut to 32 bits is cutting the longer sum once. -/
theorem ADD32_ofNat (n : Nat) (x : Word) : ADD32 (BitVec.ofNat 32 n) x = BitVec.ofNat 32 (n + x.toNat) := by
  rw [ADD32_eq, BitVec.ofNat_add, BitVec.ofNat_toNat, BitVec.setWidth_eq]

theorem ADD32_three_terms (a b c : Word) : ADD32 (ADD32 a b) c = BitVec.ofNat 32 (a.toNat + b.toNat + c.toNat) :=
  ADD32_ofNat (a.toNat + b.toNat) c

theorem ADD32_four_terms (a b c d : Word) :
    ADD32 (ADD32 (ADD32 a b) c) d = BitVec.ofNat 32 (a.toNat + b.toNat + c.toNat + d.toNat) := by
  rw [ADD32_three_terms a b c, ADD32_ofNat]

/-- Settles O11: the nested additions are the definitions, and they wrap as one sum does. What is rotated is equal, so
the shift does not matter. -/
theorem stepFunctionsRotateTheWrappedSum : Obligations.StepFunctionsRotateTheWrappedSum :=
  ⟨fun a b c d x s _ _ => ⟨rfl, rfl, rfl, congrArg (ROTL32 · s) (ADD32_three_terms a (F b c d) x),
      congrArg (ROTL32 · s) (ADD32_four_terms a (G b c d) x Config.kRound2),
      congrArg (ROTL32 · s) (ADD32_four_terms a (H b c d) x Config.kRound3)⟩,
    by decide⟩

/-! ### The frame of a step (R80, R84) -/

theorem readWork_writeWork (w : Chain) (q r : WReg) (v : Word) :
    readWork (writeWork w r v) q = if q = r then v else readWork w q := by
  cases q <;> cases r <;> rfl

/-- The pattern position at which a working register is the destination (R80). -/
def WReg.destPosition : WReg → Nat
  | .A => 0
  | .D => 1
  | .C => 2
  | .B => 3

theorem destPosition_stepRow_a (t : Fin 48) : (stepRow t).a.destPosition = t.val % 4 := by
  rw [← patternOf_val]
  change (operandRegs (patternOf t)).1.destPosition = (patternOf t).val
  generalize patternOf t = p
  revert p
  decide

/-- A step leaves a working register alone unless its position is the one that writes the register. -/
theorem readWork_STEP_of_ne {t : Fin 48} {r : WReg} (h : t.val % 4 ≠ r.destPosition) (w : Chain) (X : WorkWords) :
    readWork (STEP t w X) r = readWork w r := by
  have hne : r ≠ (stepRow t).a := by
    rintro rfl
    exact h (destPosition_stepRow_a t).symm
  exact (readWork_writeWork w r _ _).trans (if_neg hne)

/-- An index below 48 selects an instruction that computes its own row of the step table. -/
theorem exec_of_decode_step {t : Fin 48} {i : Instr} (h : decode (.step (BitVec.ofNat 6 t.val)) = .ok i) (s : State) :
    exec i s = .next (s.setWork (STEP t s.work s.X)) := by
  obtain ⟨j, hdecode, -, hexec⟩ := decodeStep_row t
  cases hdecode.symm.trans h
  exact hexec s

/-- Settles O17: the step writes the working registers alone, and of these only its destination. -/
theorem stepsWriteOnlyTheDestination : Obligations.StepsWriteOnlyTheDestination := by
  intro t s i hdecode
  have hframe (r : WReg) (h : t.val % 4 ≠ r.destPosition) := readWork_STEP_of_ne h s.work s.X
  exact ⟨_, exec_of_decode_step hdecode s, hframe .A, hframe .D, hframe .C, hframe .B, by simp⟩

/-! ### The 48 steps, each from its own rule (R100 to R147) -/

/-- Settles O12: the meaning of each step is the write its rule states, `writeWork` at the named register. -/
theorem steps0To11WriteTheirRegister : Obligations.Steps0To11WriteTheirRegister :=
  fun _ => ⟨rfl, rfl, rfl, rfl, rfl, rfl, rfl, rfl, rfl, rfl, rfl, rfl⟩

/-- Settles O13, as O12: four steps of round 1, then GG with the words in the order of round 2. -/
theorem steps12To23WriteTheirRegister : Obligations.Steps12To23WriteTheirRegister :=
  fun _ => ⟨rfl, rfl, rfl, rfl, rfl, rfl, rfl, rfl, rfl, rfl, rfl, rfl⟩

/-- Settles O14, as O12: the rest of round 2, then HH with the words in the order of round 3. -/
theorem steps24To35WriteTheirRegister : Obligations.Steps24To35WriteTheirRegister :=
  fun _ => ⟨rfl, rfl, rfl, rfl, rfl, rfl, rfl, rfl, rfl, rfl, rfl, rfl⟩

/-- Settles O15, as O12: the rest of round 3. -/
theorem steps36To47WriteTheirRegister : Obligations.Steps36To47WriteTheirRegister :=
  fun _ => ⟨rfl, rfl, rfl, rfl, rfl, rfl, rfl, rfl, rfl, rfl, rfl, rfl⟩

end Sys2Proof.Machine
end

section
/-! PROOFS. The statements of 42_compression.md: DECODE takes the words low-order byte first and loses nothing (R150, R151);
TRANSFORM on the engine is the pure function (R153), and 49 machine steps make one (R152). -/

namespace Sys2Proof.Machine

/-! ### A word and its four bytes (R150, R151) -/

theorem leWord_toNat (b0 b1 b2 b3 : Byte) : (leWord b0 b1 b2 b3).toNat =
    b0.toNat + 2 ^ 8 * b1.toNat + 2 ^ 16 * b2.toNat + 2 ^ 24 * b3.toNat := by
  simp only [leWord, BitVec.toNat_ofNat]
  omega

/-- The byte of a word at byte position i, as an integer. -/
theorem toNat_extractByte (w : Word) (i : Nat) :
    (w.extractLsb' (8 * i) 8).toNat = w.toNat / 2 ^ (8 * i) % 2 ^ 8 := by
  rw [BitVec.extractLsb'_toNat, Nat.shiftRight_eq_div_pow]

theorem leWord_extractBytes (w : Word) : leWord (w.extractLsb' (8 * 0) 8) (w.extractLsb' (8 * 1) 8)
    (w.extractLsb' (8 * 2) 8) (w.extractLsb' (8 * 3) 8) = w := by
  apply BitVec.eq_of_toNat_eq
  simp only [leWord_toNat, toNat_extractByte]
  omega

theorem extractByte_leWord (b : Fin 4 → Byte) (i : Fin 4) :
    (leWord (b 0) (b 1) (b 2) (b 3)).extractLsb' (8 * i.val) 8 = b i := by
  apply BitVec.eq_of_toNat_eq
  rw [toNat_extractByte, leWord_toNat]
  match i with
  | 0 | 1 | 2 | 3 => simp only [Fin.coe_ofNat_eq_mod, Nat.reduceMod]; omega

/-! ### DECODE (R150) -/

theorem getElem_DECODE (block : Block) {j : Nat} (hj : j < 16) : (DECODE block)[j] =
    leWord block[4 * j] block[4 * j + 1] block[4 * j + 2] block[4 * j + 3] := by
  simp [DECODE]

theorem getElem_bufBlock (s : State) (i : Fin 64) : (bufBlock s)[i] = bufByte s i.val := by
  simp [bufBlock]

@[simp] theorem beginTransform_X (s : State) : (beginTransform s).X = DECODE (bufBlock s) := by
  simp [beginTransform]

/-- Settles O18: word j is `leWord` of its four bytes, whose value as an integer is their weighted sum. -/
theorem decodeIsLittleEndian : Obligations.DecodeIsLittleEndian := by
  refine ⟨fun block j => ?_, fun s => ⟨beginTransform_X s, getElem_bufBlock s⟩, fun block h0 h1 h2 h3 => ?_,
    fun block h => ?_⟩
  · exact (congrArg BitVec.toNat (getElem_DECODE block j.isLt)).trans (leWord_toNat ..)
  · rw [getElem_DECODE block (by decide)]
    simp only [h0, h1, h2, h3]
    rfl
  · have hbyte (k : Nat) (hk : k < 64) : block[k] = BitVec.ofNat 8 k := h ⟨k, hk⟩
    simp only [getElem_DECODE, hbyte]
    decide

/-! ### The inverse of DECODE (R151) -/

/-- The block whose byte k is bits 8i+7 to 8i of word j, where k = 4j + i (R151). -/
def wordsToBlock (X : WorkWords) : Block :=
  Vector.ofFn fun k : Fin 64 => (X[k.val / 4]).extractLsb' (8 * (k.val % 4)) 8

theorem DECODE_wordsToBlock (X : WorkWords) : DECODE (wordsToBlock X) = X := by
  ext j hj : 1
  have hbyte (i : Nat) (hi : i < 4) : (wordsToBlock X)[4 * j + i] = X[j].extractLsb' (8 * i) 8 := by
    have hdiv : (4 * j + i) / 4 = j := by omega
    have hmod : (4 * j + i) % 4 = i := by omega
    simp [wordsToBlock, hdiv, hmod]
  rw [getElem_DECODE _ hj, hbyte 1 (by decide), hbyte 2 (by decide), hbyte 3 (by decide),
    show (wordsToBlock X)[4 * j] = _ from hbyte 0 (by decide)]
  exact leWord_extractBytes X[j]

theorem byte_eq_extract_DECODE (block : Block) (j : Fin 16) (i : Fin 4) :
    block[4 * j.val + i.val] = ((DECODE block)[j]).extractLsb' (8 * i.val) 8 := by
  have h := getElem_DECODE block j.isLt
  exact (extractByte_leWord (fun i => block[4 * j.val + i.val]) i).symm.trans
    (congrArg (BitVec.extractLsb' (8 * i.val) 8) h.symm)

theorem wordsToBlock_DECODE (block : Block) : wordsToBlock (DECODE block) = block := by
  ext k hk : 1
  have h := byte_eq_extract_DECODE block ⟨k / 4, by omega⟩ ⟨k % 4, by omega⟩
  simp only [Nat.div_add_mod] at h
  simpa [wordsToBlock] using h.symm

/-- Settles O19: `wordsToBlock` is the inverse on both sides. -/
theorem decodeIsABijection : Obligations.DecodeIsABijection :=
  ⟨Function.bijective_iff_has_inverse.2 ⟨wordsToBlock, wordsToBlock_DECODE, DECODE_wordsToBlock⟩,
    byte_eq_extract_DECODE⟩

/-! ### TRANSFORM on the engine's state (R153) -/

/-- TRANSFORM does not read total, len and done. -/
theorem runTransform_setTotal_setLen_setDone (s : State) (x : BitVec 64) (l : BitVec 6) (d : Bool) :
    runTransform (((s.setTotal x).setLen l).setDone d) = (((runTransform s).setTotal x).setLen l).setDone d := by
  have hblock : bufBlock ((s.setTotal x).setLen l) = bufBlock s := rfl
  rw [runTransform_setDone, runTransform_eq, runTransform_eq, hblock, setLen_cv, setTotal_cv]
  generalize TRANSFORM s.cv (bufBlock s) = v
  rfl

/-- Settles O21: the 64th byte runs TRANSFORM, of which `runTransform_eq` says everything it does. -/
theorem transformOnTheStateIsThePureFunction : Obligations.TransformOnTheStateIsThePureFunction := by
  refine ⟨fun b s h => congrArg Host.Outcome.next (absorbByte_of_eq (len_eq_63.2 h) b), fun s => ?_⟩
  exact ⟨runTransform_cv s, runTransform_total s, runTransform_buf s, runTransform_len s, runTransform_done s,
    runTransform_setTotal_setLen_setDone s⟩

/-! ### 49 machine steps make one TRANSFORM (R152, R20) -/

/-- A run of the machine that ends in a next state is followed by that state's step. -/
theorem core_run_succ_of_run {n : Nat} {s t u : State} (hrun : Host.Core.run Sys2Proof.core n s = .next t)
    (hstep : step t = .next u) : Host.Core.run Sys2Proof.core (n + 1) s = .next u := by
  induction n generalizing s with
  | zero => cases hrun; exact core_run_next hstep 0
  | succ n ih =>
    cases hs : step s with
    | next v => exact (core_run_next hs (n + 1)).trans (ih ((core_run_next hs n).symm.trans hrun))
    | fault r => cases r
    | refused r => simp [Host.Core.run, show Sys2Proof.core.step s = .refused r from hs] at hrun

/-- Where the sequencer stands after n steps of a TRANSFORM (R20). -/
def seqAfter (n : Nat) : Sequencer := if n < 48 then .round (BitVec.ofNat 6 n) else .addBack

theorem nextSeq_ofNat {n : Nat} (h : n < 48) : nextSeq (BitVec.ofNat 6 n) = seqAfter (n + 1) := by
  revert n
  decide

theorem seqAfter_ne_idle (n : Nat) : seqAfter n ≠ .idle := by
  unfold seqAfter
  split <;> nofun

/-- The engine after lines 1 and 2 of R152 and the first n passes of line 3. -/
def afterRounds (s : State) (n : Nat) : State := ((List.finRange 48).take n).foldl roundStep (beginTransform s)

theorem afterRounds_succ (s : State) {n : Nat} (h : n < 48) :
    afterRounds s (n + 1) = roundStep (afterRounds s n) ⟨n, h⟩ := by
  have hlast : (List.finRange 48)[n]? = some ⟨n, h⟩ := by simp [h]
  simp [afterRounds, List.take_add_one, hlast]

theorem afterRounds_seq (s : State) {n : Nat} (h : n ≤ 48) : (afterRounds s n).seq = seqAfter n := by
  cases n with
  | zero => exact beginTransform_seq s
  | succ n => rw [afterRounds_succ s h, roundStep_seq, nextSeq_ofNat h]

@[simp] theorem afterRounds_inputs (s : State) (n : Nat) : (afterRounds s n).inputs = s.inputs := by
  obtain ⟨q, hq⟩ := foldl_roundStep ((List.finRange 48).take n) (beginTransform s)
  simp [afterRounds, hq]

theorem addBack_afterRounds (s : State) : addBack (afterRounds s 48) = runTransform s := by
  have hall : (List.finRange 48).take 48 = List.finRange 48 := List.take_of_length_le (by simp)
  rw [afterRounds, hall, runTransform]

/-- With no reset at the port, a machine step at index t is one pass of line 3. -/
theorem step_eq_roundStep {s : State} {t : Fin 48} (hseq : s.seq = .round (BitVec.ofNat 6 t.val))
    (hreset : resetAsserted s = false) : step s = .next (roundStep s t) := by
  obtain ⟨i, hdecode, -, hexec⟩ := decodeStep_row t
  exact (step_round hseq hreset hdecode).trans (hexec _)

theorem step_addBack {s : State} (hseq : s.seq = .addBack) (hreset : resetAsserted s = false) :
    step s = .next (addBack s) := by
  simp [step, fetch, fetchNoReset, hseq, hreset]

theorem resetAsserted_afterRounds (s : State) (n : Nat) : resetAsserted (afterRounds s n) = resetAsserted s := by
  simp only [resetAsserted, afterRounds_inputs]

theorem core_run_beginTransform {s : State} (hreset : resetAsserted s = false) {n : Nat} (h : n ≤ 48) :
    Host.Core.run Sys2Proof.core n (beginTransform s) = .next (afterRounds s n) := by
  induction n with
  | zero => rfl
  | succ n ih =>
    have hseq : (afterRounds s n).seq = .round (BitVec.ofNat 6 n) :=
      (afterRounds_seq s (Nat.le_of_succ_le h)).trans (if_pos h)
    rw [afterRounds_succ s h]
    exact core_run_succ_of_run (ih (Nat.le_of_succ_le h))
      (step_eq_roundStep hseq ((resetAsserted_afterRounds s n).trans hreset))

/-- Settles O22, by induction on the steps made: they pass through `afterRounds`, and the last one adds back. -/
theorem fortyNineStepsMakeOneTransform : Obligations.FortyNineStepsMakeOneTransform := by
  intro s hreset
  refine ⟨?_, fun n hn => ?_⟩
  · rw [← addBack_afterRounds]
    exact core_run_succ_of_run (core_run_beginTransform hreset (Nat.le_refl 48))
      (step_addBack (afterRounds_seq s (Nat.le_refl 48)) ((resetAsserted_afterRounds s 48).trans hreset))
  · have hseq := afterRounds_seq s (Nat.le_of_lt_succ hn)
    refine ⟨afterRounds s n, core_run_beginTransform hreset (Nat.le_of_lt_succ hn), ?_, afterRounds_inputs s n, hseq⟩
    simp [cmdReady, hseq, seqAfter_ne_idle]

/-! ### The tabulated values (R156) -/

/-- Settles O20: closed terms, evaluated by the kernel. -/
theorem transformTestVectors : Obligations.TransformTestVectors := by
  unfold Obligations.TransformTestVectors
  decide +kernel

end Sys2Proof.Machine
end

section
/-! PROOFS. The statements of 43_init_absorb.md: NOP, INIT and ABSORB with their frames (R160 to R165); a run of ABSORBs
and NOPs depends on its bytes alone (R167), and what it leaves (R169). -/

namespace Sys2Proof.Machine

/-! ### NOP and INIT (R160, R161) -/

/-- Settles O23: the meaning of NOP answers the state it was given. -/
theorem nopKeepsEverything : Obligations.NopKeepsEverything :=
  fun _ _ => rfl

/-- INIT changes nothing in a context that is fresh already. -/
theorem Fresh.contextReset_eq {s : State} (h : Fresh s) : contextReset s = s := by
  obtain ⟨hcv, htotal, hlen, hdone⟩ := h
  obtain ⟨cv, total, buf, len, done, work, X, seq, inputs, epoch⟩ := s
  cases hcv
  cases htotal
  cases hlen
  cases hdone
  rfl

/-- INIT in a fresh context answers the same state, whatever its data bits. -/
theorem Fresh.exec_init {s : State} (h : Fresh s) (d : Byte) : exec (.init d) s = .next s :=
  congrArg Host.Outcome.next h.contextReset_eq

/-- Settles O24: INIT leaves a fresh context, as hardware reset and power-up do, and changes nothing in one. -/
theorem initResetsTheContext : Obligations.InitResetsTheContext := by
  refine ⟨fun d s => ?_, fun d s => ⟨(fresh_hardwareReset s).exec_init d, fresh_reset.exec_init d⟩⟩
  have hfresh := fresh_contextReset s
  exact ⟨contextReset s, rfl, hfresh.cv, hfresh.total, hfresh.len, hfresh.done, hfresh.exec_init, hfresh.done,
    (congrArg chainBytes hfresh.cv).trans chainBytes_md4IV⟩

/-- Settles O25: the context reset writes CV, total, len and done only. -/
theorem initKeepsTheStorage : Obligations.InitKeepsTheStorage :=
  fun _ s => ⟨contextReset s, rfl, fun a => congrArg (Memory.read · a) (contextReset_buf s), contextReset_work s,
    contextReset_X s, contextReset_seq s, contextReset_inputs s, contextReset_epoch s⟩

/-! ### One ABSORB (R163, R32) -/

/-- A read of the buffer after a store at index a. -/
theorem bufByte_setBuf_write (s : State) (a : Nat) (b : Byte) (i : Nat) :
    bufByte (s.setBuf (s.buf.write a b)) i = if i = a then b else bufByte s i := by
  unfold bufByte
  rw [setBuf_buf, Memory.read_write, setBuf_epoch]
  split <;> rfl

/-- The 64th byte of a block runs TRANSFORM on the 63 bytes before it and itself. -/
theorem absorbByte_cv_of_eq {s : State} (h : s.len = 63#6) (b : Byte) : (absorbByte s b).cv =
    TRANSFORM s.cv (Vector.ofFn fun i : Fin 64 => if i.val = 63 then b else bufByte s i.val) := by
  have hblock : bufBlock ((s.setTotal (s.total + 1#64)).setBuf (s.buf.write s.len.toNat b)) =
      Vector.ofFn fun i : Fin 64 => if i.val = 63 then b else bufByte s i.val := by
    rw [len_eq_63.1 h]
    exact congrArg Vector.ofFn
      (funext fun i => bufByte_setBuf_write (s.setTotal (s.total + 1#64)) 63 b i.val)
  rw [absorbByte_of_eq h, setLen_cv, runTransform_cv, hblock, setBuf_cv, setTotal_cv]

theorem absorbByte_len_toNat_of_ne {s : State} (h : s.len.toNat ≠ 63) (b : Byte) :
    (absorbByte s b).len.toNat = s.len.toNat + 1 := by
  have := s.len.isLt
  rw [absorbByte_len, BitVec.toNat_add, BitVec.toNat_ofNat]
  omega

/-- Settles O26: the counter, the byte and `done` alike in both cases; CV and `len` by whether the buffer fills. -/
theorem absorbStoresAByteAndTransformsFullBlocks : Obligations.AbsorbStoresAByteAndTransformsFullBlocks := by
  intro b s
  refine ⟨absorbByte s b, rfl, ?_, ?_, absorbByte_done s b, fun hfull => ?_, fun hne => ?_⟩
  · rw [absorbByte_total, BitVec.toNat_add]
    rfl
  · rw [absorbByte_buf, Memory.read_write_same]
  · have hlen := len_eq_63.2 hfull
    exact ⟨by rw [absorbByte_len, hlen]; rfl, absorbByte_cv_of_eq hlen b⟩
  · exact ⟨absorbByte_len_toNat_of_ne hne b, absorbByte_cv_of_ne (mt len_eq_63.1 hne) b⟩

/-- Settles O27: the one store is at index `len`, and the transient elements are written by TRANSFORM alone. -/
theorem absorbChangesOneByte : Obligations.AbsorbChangesOneByte := by
  intro b s
  refine ⟨absorbByte s b, rfl, fun a ha => ?_, absorbByte_done s b, absorbByte_inputs s b, fun hne => ?_⟩
  · rw [absorbByte_buf, Memory.read_write_other _ b ha]
  · simp [absorbByte_of_ne (mt len_eq_63.1 hne)]

/-! ### The counter wraps silently (R165) -/

theorem setLen_setDone_self (s : State) : (s.setLen s.len).setDone s.done = s := rfl

theorem runTransform_setTotal (s : State) (x : BitVec 64) :
    runTransform (s.setTotal x) = (runTransform s).setTotal x := by
  have hcommutes := runTransform_setTotal_setLen_setDone s x s.len s.done
  have hafter := setLen_setDone_self ((runTransform s).setTotal x)
  rw [setTotal_len, setTotal_done, runTransform_len, runTransform_done] at hafter
  rwa [hafter] at hcommutes

/-- ABSORB reads total only to count it up. -/
theorem absorbByte_setTotal (s : State) (x : BitVec 64) (b : Byte) :
    absorbByte (s.setTotal x) b = (absorbByte s b).setTotal (x + 1#64) := by
  by_cases h : s.len = 63#6
  · rw [absorbByte_of_eq h, absorbByte_of_eq (s := s.setTotal x) h]
    exact congrArg (State.setLen · 0#6)
      (runTransform_setTotal ((s.setTotal (s.total + 1#64)).setBuf (s.buf.write s.len.toNat b)) (x + 1#64))
  · rw [absorbByte_of_ne h, absorbByte_of_ne (s := s.setTotal x) h]
    rfl

/-- Settles O28: ABSORB commutes with a change of total, and 64 divides 2^64. -/
theorem counterWrapsSilently : Obligations.CounterWrapsSilently := by
  intro b s hmax
  refine ⟨absorbByte s b, rfl, ?_, fun x => ?_, fun hlen => absorbBytes_len_eq hlen [b]⟩
  · rw [absorbByte_total, hmax]
    rfl
  · exact congrArg Host.Outcome.next (absorbByte_setTotal s x b)

/-! ### A whole message (R169) -/

/-- Nothing is pending in a fresh context. -/
theorem Fresh.pending_nil {s : State} (h : Fresh s) : Pending s [] :=
  ⟨by rw [h.len]; rfl, fun i hi => absurd hi (Nat.not_lt_zero i)⟩

/-- Settles O53: the run of bytes from nothing pending, with both counters starting at 0. -/
theorem stateAfterAbsorbingAMessage : Obligations.StateAfterAbsorbingAMessage := by
  intro m s hs
  obtain ⟨hpending, hcv, -⟩ := hs.pending_nil.absorbBytes m
  rw [List.nil_append] at hpending hcv
  have htail : (m.drop (64 * (m.length / 64))).length = m.length % 64 := by
    rw [List.length_drop]
    omega
  refine ⟨absorbBytes s m, runWords_absorbSeq m s, ?_, hpending.len.trans htail, hs.cv ▸ hcv, fun i hi => ?_, ?_⟩
  · simp [absorbBytes_total, hs.total]
  · rw [hpending.bytes i (htail.symm ▸ hi), List.getElem?_drop]
  · rw [absorbBytes_done, hs.done]

/-! ### Chunking and NOPs (R167, R193) -/

theorem absorbSeq_append (xs ys : List Byte) : absorbSeq (xs ++ ys) = absorbSeq xs ++ absorbSeq ys :=
  List.map_append

theorem absorbSeq_flatten (chunks : List (List Byte)) :
    absorbSeq chunks.flatten = (chunks.map absorbSeq).flatten :=
  List.map_flatten

theorem messageOf_cons_absorb {w : BitVec 10} (h : cmdKind w = .absorb) (acc : List Byte) (ws : List (BitVec 10)) :
    messageOf acc (w :: ws) = messageOf (acc ++ [w.extractLsb' 0 8]) ws := by
  simp [messageOf, h]

theorem messageOf_cons_nop {w : BitVec 10} (h : cmdKind w = .nop) (acc : List Byte) (ws : List (BitVec 10)) :
    messageOf acc (w :: ws) = messageOf acc ws := by
  simp [messageOf, h]

theorem commandNext_of_absorb {w : BitVec 10} (h : cmdKind w = .absorb) (s : State) :
    commandNext w s = absorbByte s (w.extractLsb' 0 8) := by
  simp [commandNext, h]

theorem commandNext_of_nop {w : BitVec 10} (h : cmdKind w = .nop) (s : State) : commandNext w s = s := by
  simp [commandNext, h]

theorem absorbBytes_append_singleton (s : State) (bs : List Byte) (b : Byte) :
    absorbBytes s (bs ++ [b]) = absorbByte (absorbBytes s bs) b :=
  absorbBytes_append s bs [b]

/-- A run of ABSORBs and NOPs after the bytes `acc` absorbs `acc` and the bytes of its ABSORBs. -/
theorem runWords_absorbs_and_nops {ws : List (BitVec 10)} (hws : ∀ w ∈ ws, cmdKind w = .absorb ∨ cmdKind w = .nop)
    (acc : List Byte) (s : State) :
    runWords ws (absorbBytes s acc) = .next (absorbBytes s (messageOf acc ws)) := by
  induction ws generalizing acc with
  | nil => rfl
  | cons w ws ih =>
    obtain ⟨hw, hws⟩ := List.forall_mem_cons.1 hws
    rw [runWords_cons_next (exec_decodeCmd w _)]
    rcases hw with hk | hk
    · rw [commandNext_of_absorb hk, messageOf_cons_absorb hk, ← absorbBytes_append_singleton, ih hws]
    · rw [commandNext_of_nop hk, messageOf_cons_nop hk, ih hws]

/-- Settles O54: ABSORB_SEQ maps over the bytes, a run goes on where its first part ended, and a NOP drops out of it. -/
theorem chunkingDoesNotMatter : Obligations.ChunkingDoesNotMatter := by
  refine ⟨fun chunks s => ?_, fun xs ys s t h => ?_, fun ws s hws => ?_⟩
  · rw [absorbSeq_flatten]
  · rw [absorbSeq_append, runWords_append_next h]
  · rw [runWords_absorbSeq]
    exact runWords_absorbs_and_nops hws [] s

end Sys2Proof.Machine
end

section
/-! PROOFS. The statements of 44_finalizer.md: the padding (R174 to R176), what FINALIZE does (R173, R177, R182), the
digest and when it is valid (R180, R181), and that the engine computes MD4 (R183). -/

namespace Sys2Proof.Machine

/-! ### The pad length (R174) -/

theorem padLen_of_lt {idx : Nat} (h : idx < 56) : padLen idx = 56 - idx := if_pos h

theorem padLen_of_ge {idx : Nat} (h : 56 ≤ idx) : padLen idx = 120 - idx := if_neg (Nat.not_lt.2 h)

/-- The pad ends 8 bytes before the end of this block or of the next. -/
theorem add_padLen {idx : Nat} (h : idx < 64) :
    (idx < 56 ∧ idx + padLen idx = 56) ∨ (56 ≤ idx ∧ idx + padLen idx = 120) := by
  obtain hlt | hge := Nat.lt_or_ge idx 56
  · exact .inl ⟨hlt, by rw [padLen_of_lt hlt]; omega⟩
  · exact .inr ⟨hge, by rw [padLen_of_ge hge]; omega⟩

/-- Whole blocks and a rest, the pad and the suffix together fill blocks. -/
theorem add_padLen_add_eight_mod (n : Nat) : (n + padLen (n % 64) + 8) % 64 = 0 := by
  have hpad := add_padLen (Nat.mod_lt n (by decide : 0 < 64))
  omega

/-- Settles O31: the bounds and the residue follow from where the pad ends. -/
theorem padLengthRule : Obligations.PadLengthRule := by
  refine ⟨fun idx hidx => ⟨padLen_of_lt, padLen_of_ge, padLen_pos hidx, ?_⟩, rfl, rfl, rfl, rfl⟩
  have hpad := add_padLen hidx
  omega

/-! ### The bit count (R175) -/

theorem bitCount_toNat (total : BitVec 64) : (bitCount total).toNat = total.toNat * 8 % 2 ^ 64 :=
  BitVec.toNat_ofNat ..

theorem bitCount_eq_append (total : BitVec 64) : bitCount total = total.extractLsb' 0 61 ++ 0b000#3 := by
  apply BitVec.eq_of_toNat_eq
  rw [bitCount_toNat, BitVec.toNat_append, BitVec.extractLsb'_toNat]
  simp only [Nat.shiftRight_zero, Nat.shiftLeft_eq, BitVec.toNat_ofNat, Nat.zero_mod, Nat.or_zero]
  omega

/-- Settles O32: the product as an integer, and its bits above three zeros. -/
theorem bitCountRule : Obligations.BitCountRule :=
  fun total => ⟨bitCount_toNat total, bitCount_eq_append total⟩

/-! ### The padding sequence (R176) -/

theorem getElem?_countBytes (c : BitVec 64) (i : Fin 8) :
    (countBytes c)[i.val]? = some (c.extractLsb' (8 * i.val) 8) := by
  fin_cases i <;> rfl

/-- Settles O33: the first byte, the zeros and the suffix by their positions in the two appended lists. -/
theorem paddingSequenceRule : Obligations.PaddingSequenceRule := by
  intro n bits hn
  obtain ⟨k, rfl⟩ := Nat.exists_eq_add_of_le' hn
  refine ⟨PADSEQ_length hn bits, rfl, fun i h1 hi => ?_, fun i hi => ?_⟩
  · obtain ⟨j, rfl⟩ := Nat.exists_eq_add_of_le' h1
    have hj : j < k := by omega
    simp [PADSEQ, List.getElem?_append_left, hj]
  · have hpos : k + 1 + i = (k + i) + 1 := by omega
    simpa [PADSEQ, hpos, List.getElem?_append_right] using getElem?_countBytes bits ⟨i, by omega⟩

/-! ### What FINALIZE stores (R173) -/

/-- Settles O29: the run of ABSORBs is the run of ABSORB_BYTEs inside FINALIZE. -/
theorem finalizeAbsorbsThePadding : Obligations.FinalizeAbsorbsThePadding :=
  fun _ s => ⟨absorbBytes s (paddingOf s.total), runWords_absorbSeq _ s, rfl⟩

/-- A run of bytes stores to the indexes from `len` on, modulo 64, and to no other. -/
theorem absorbBytes_read_other {s : State} {a : Nat} {bs : List Byte}
    (h : ∀ k, k < bs.length → a ≠ (s.len.toNat + k) % 64) : (absorbBytes s bs).buf.read a = s.buf.read a := by
  induction bs generalizing s with
  | nil => rfl
  | cons b bs ih =>
    have hlen := s.len.isLt
    have hfirst : a ≠ s.len.toNat := by
      have := h 0 (by simp)
      omega
    have hrest : ∀ k, k < bs.length → a ≠ ((absorbByte s b).len.toNat + k) % 64 := by
      intro k hk
      have := h (k + 1) (by simpa using hk)
      rw [absorbByte_len, BitVec.toNat_add, BitVec.toNat_ofNat]
      omega
    rw [absorbBytes_cons, ih hrest, absorbByte_buf, Memory.read_write_other _ b hfirst]

/-- Settles O30: the frame of a run of bytes, for as many bytes as the padding has. -/
theorem finalizeStoresOnlyThePadding : Obligations.FinalizeStoresOnlyThePadding := by
  refine fun d s => ⟨markDone (absorbBytes s (paddingOf s.total)), rfl, by simp, fun a ha => ?_⟩
  rw [markDone_buf]
  exact absorbBytes_read_other (by rwa [paddingOf_length])

/-! ### The end state of FINALIZE (R177) -/

theorem EngineInv.pending {s : State} (h : EngineInv s) :
    Pending s ((List.range (s.total.toNat % 64)).map (bufByte s)) := by
  refine pending_of_bytes h.len_eq fun i hi => ?_
  obtain ⟨b, hb⟩ := Option.isSome_iff_exists.1 (h.valid i (h.len_eq ▸ hi))
  simp [bufByte, hb]

/-- The padding carries total to a multiple of 64, also where it wraps: 64 divides 2^64. -/
theorem absorb_padding_total (s : State) :
    (absorbBytes s (paddingOf s.total)).total.toNat =
      (s.total.toNat + padLen (s.total.toNat % 64) + 8) % 2 ^ 64 ∧
    (absorbBytes s (paddingOf s.total)).total.toNat % 64 = 0 := by
  have hmod := add_padLen_add_eight_mod s.total.toNat
  rw [absorbBytes_total, paddingOf_length, BitVec.toNat_add, BitVec.toNat_ofNat]
  omega

theorem paddingOf_of_le {total : BitVec 64} (h : total.toNat % 64 ≤ 55) : paddingOf total =
    0x80#8 :: (List.replicate (55 - total.toNat % 64) 0x00#8 ++ countBytes (bitCount total)) := by
  rw [paddingOf, padLen_of_lt (by omega), PADSEQ, Nat.sub_right_comm]
  rfl

/-- From index 56 on the padding crosses a block boundary 56 bytes before its suffix. -/
theorem paddingOf_of_ge {total : BitVec 64} (h : 56 ≤ total.toNat % 64) : paddingOf total =
    (0x80#8 :: List.replicate (63 - total.toNat % 64) 0x00#8) ++
      (List.replicate 56 0x00#8 ++ countBytes (bitCount total)) := by
  have hzeros : 120 - total.toNat % 64 - 1 = (63 - total.toNat % 64) + 56 := by omega
  rw [paddingOf, padLen_of_ge h, PADSEQ, hzeros, List.replicate_add, List.append_assoc]
  rfl

/-- One block completed by a run of bytes. -/
theorem Pending.absorbBytes_one {s : State} {p bs : List Byte} (h : Pending s p) (hlen : (p ++ bs).length = 64) :
    (Machine.absorbBytes s bs).epoch = s.epoch + 1 ∧
      (Machine.absorbBytes s bs).cv = TRANSFORM s.cv (blockAt (p ++ bs) 0) := by
  obtain ⟨-, hcv, hepoch⟩ := h.absorbBytes bs
  rw [hlen] at hcv hepoch
  exact ⟨hepoch, hcv⟩

/-- Two blocks completed by a run of bytes. -/
theorem Pending.absorbBytes_two {s : State} {p xs ys : List Byte} (h : Pending s p) (hx : (p ++ xs).length = 64)
    (hy : ys.length = 64) :
    (Machine.absorbBytes s (xs ++ ys)).epoch = s.epoch + 2 ∧
      (Machine.absorbBytes s (xs ++ ys)).cv = TRANSFORM (TRANSFORM s.cv (blockAt (p ++ xs) 0)) (blockAt ys 0) := by
  obtain ⟨hepoch, hcv⟩ := h.absorbBytes_one hx
  have hnil : Pending (Machine.absorbBytes s xs) [] := by
    simpa only [hx, Nat.div_self, Nat.mul_one, List.drop_of_length_le (Nat.le_of_eq hx)] using (h.absorbBytes xs).1
  obtain ⟨hepoch', hcv'⟩ := hnil.absorbBytes_one (bs := ys) hy
  rw [absorbBytes_append, hepoch', hcv', hepoch, hcv]
  exact ⟨rfl, rfl⟩

/-- Settles O34: the run of the padding from the bytes pending at its start, which fill one block or two with it. -/
theorem finalizeEndState : Obligations.FinalizeEndState := by
  intro d s hs idx pending suffix
  have hidx : pending.length = idx := by simp [pending]
  obtain ⟨htotal, hmod⟩ := absorb_padding_total s
  refine ⟨markDone (absorbBytes s (paddingOf s.total)), rfl, ?_, markDone_done _, ?_, ?_,
    fun hle => ?_, fun hge => ?_⟩
  · have hlen := absorbBytes_len_eq hs.len_eq (paddingOf s.total)
    exact BitVec.eq_of_toNat_eq (by simpa [hmod] using hlen)
  · rwa [markDone_total]
  · rwa [markDone_total]
  · have hblock : (pending ++ paddingOf s.total).length = 64 := by
      rw [List.length_append, hidx, paddingOf_length, padLen_of_lt (by omega)]
      omega
    rw [markDone_epoch, markDone_cv, ← paddingOf_of_le hle]
    exact hs.pending.absorbBytes_one hblock
  · have hblock : (pending ++ 0x80#8 :: List.replicate (63 - idx) 0x00#8).length = 64 := by
      rw [List.length_append, hidx, List.length_cons, List.length_replicate]
      omega
    rw [markDone_epoch, markDone_cv, paddingOf_of_ge hge]
    exact hs.pending.absorbBytes_two hblock rfl

/-! ### The digest output (R180) -/

/-- Byte j of word i stands at 4i + j; the sixteen positions are read off one by one. -/
theorem getElem?_chainBytes (v : Chain) (i j : Fin 4) : (chainBytes v)[4 * i.val + j.val]? =
    some (([v.A, v.B, v.C, v.D].getD i.val 0#32).extractLsb' (8 * j.val) 8) := by
  fin_cases i <;> fin_cases j <;> rfl

/-- On the bus the width 128 is the sum of the four widths. -/
theorem extract_digestBus (s : State) (start len : Nat) : (digestBus s).extractLsb' start len =
    (s.cv.D ++ s.cv.C ++ s.cv.B ++ s.cv.A).extractLsb' start len := rfl

/-- Byte 4i + j of the bus is byte j of word i, which stands above i words of 32 bits. -/
theorem extractByte_digestBus (s : State) (i j : Fin 4) :
    (digestBus s).extractLsb' (8 * (4 * i.val + j.val)) 8 =
      ([s.cv.A, s.cv.B, s.cv.C, s.cv.D].getD i.val 0#32).extractLsb' (8 * j.val) 8 := by
  have hj := j.isLt
  rw [extract_digestBus]
  match i with
  | 0 | 1 | 2 | 3 =>
    simp only [Fin.coe_ofNat_eq_mod]
    simp (disch := omega) only [BitVec.extractLsb'_append_eq_of_le, BitVec.extractLsb'_append_eq_of_add_le]
    refine congrArg (BitVec.extractLsb' · 8 _) ?_
    omega

/-- Settles O40: every position n is byte n mod 4 of word n / 4, in the list and on the bus. -/
theorem digestSerialisesTheChainingWords : Obligations.DigestSerialisesTheChainingWords := by
  refine ⟨fun s => ⟨rfl, getElem?_chainBytes s.cv, fun n => ?_⟩, fun s hcv => ?_⟩
  · have hbyte := getElem?_chainBytes s.cv ⟨n.val / 4, by omega⟩ ⟨n.val % 4, by omega⟩
    rwa [← extractByte_digestBus, Nat.div_add_mod] at hbyte
  · rw [digest, hcv]
    decide

/-! ### MD4 of a message (R183) -/

theorem length_paddedMessage (m : List Byte) :
    (paddedMessage m).length = m.length + padLen (m.length % 64) + 8 := by
  rw [paddedMessage, List.length_append, PADSEQ_length (padLen_pos (by omega)), Nat.add_assoc]

/-- The padding of a counted message is that of the message, also where the 64-bit counter wrapped (R165, R175). -/
theorem append_paddingOf {total : BitVec 64} {m : List Byte} (h : total = BitVec.ofNat 64 m.length) :
    m ++ paddingOf total = paddedMessage m := by
  have hidx : total.toNat % 64 = m.length % 64 := by
    rw [h, BitVec.toNat_ofNat]
    omega
  have hbits : bitCount total = BitVec.ofNat 64 (8 * m.length) := by
    apply BitVec.eq_of_toNat_eq
    rw [bitCount_toNat, h, BitVec.toNat_ofNat, BitVec.toNat_ofNat]
    omega
  rw [paddingOf, hidx, hbits, paddedMessage]

theorem absorb_paddedMessage_cv {s : State} (hcv : s.cv = Config.md4IV) (hp : Pending s []) (m : List Byte) :
    (absorbBytes s (paddedMessage m)).cv = md4Chain m := by
  obtain ⟨-, hfold, -⟩ := hp.absorbBytes (paddedMessage m)
  rwa [List.nil_append, hcv] at hfold

/-- FINALIZE after a whole message from a fresh context shows the digest of the message. -/
theorem Fresh.digest_finalize {s : State} (h : Fresh s) (m : List Byte) :
    digest (markDone (absorbBytes (absorbBytes s m) (paddingOf (absorbBytes s m).total))) = md4 m := by
  have htotal : (absorbBytes s m).total = BitVec.ofNat 64 m.length := by simp [absorbBytes_total, h.total]
  rw [digest, markDone_cv, ← absorbBytes_append, append_paddingOf htotal,
    absorb_paddedMessage_cv h.cv h.pending_nil, md4]

theorem commandNext_of_init {w : BitVec 10} (h : cmdKind w = .init) (s : State) :
    commandNext w s = contextReset s := by
  simp [commandNext, h]

theorem commandNext_of_finalize {w : BitVec 10} (h : cmdKind w = .finalize) (s : State) :
    commandNext w s = markDone (absorbBytes s (paddingOf s.total)) := by
  simp [commandNext, h]

theorem runWords_digestWords (m : List Byte) (s : State) :
    runWords (digestWords m) s =
      .next (markDone (absorbBytes (absorbBytes (contextReset s) m)
        (paddingOf (absorbBytes (contextReset s) m).total))) := by
  rw [digestWords, runWords_cons_next (exec_decodeCmd wordInit s), commandNext_of_init rfl,
    runWords_append_next (runWords_absorbSeq m _), runWords_cons_next (exec_decodeCmd wordFinalize _),
    commandNext_of_finalize rfl, runWords_nil]

theorem md4_nil : md4 [] = [0x31#8, 0xd6#8, 0xcf#8, 0xe0#8, 0xd1#8, 0x6a#8, 0xe9#8, 0x31#8, 0xb7#8, 0x3c#8, 0x59#8,
    0xd7#8, 0xe0#8, 0xc0#8, 0x89#8, 0xc0#8] := by
  decide +kernel

/-- Settles O55: INIT leaves a fresh context, and FINALIZE pads the message; the four digests of the source evaluate. -/
theorem theEngineComputesMd4 : Obligations.TheEngineComputesMd4 := by
  refine ⟨fun m s => ?_, md4_nil, ?_⟩
  · have hdigest := (fresh_contextReset s).digest_finalize m
    refine ⟨_, runWords_digestWords m s, ?_, add_padLen_add_eight_mod m.length, hdigest, markDone_done _⟩
    rw [hdigest, md4, md4Chain, length_paddedMessage, paddedMessage]
  · decide +kernel

/-! ### The bit count beyond 2^61 (R182) -/

theorem pending_nil_of_len {s : State} (h : s.len = 0#6) : Pending s [] :=
  ⟨by rw [h]; rfl, fun i hi => absurd hi (Nat.not_lt_zero i)⟩

/-- Settles O35: 8 * 2^61 is 2^64, so at total = 2^61 the padding is that of the empty message. -/
theorem bitCountOverflowLosesTheTopBits : Obligations.BitCountOverflowLosesTheTopBits := by
  refine ⟨fun total _ => ?_, fun d s hcv hlen _ htotal => ⟨by rw [htotal]; decide, ?_⟩⟩
  · rw [bitCount_toNat]
    omega
  · have hpad : paddingOf s.total = paddedMessage [] := by rw [htotal]; decide
    refine ⟨markDone (absorbBytes s (paddingOf s.total)), rfl, ?_⟩
    rw [digest, markDone_cv, hpad, absorb_paddedMessage_cv hcv (pending_nil_of_len hlen)]
    exact md4_nil

/-! ### When the digest is valid (R181) -/

/-- A digest shown as valid is that of the message `acc`; while none is, the engine has absorbed `acc` since it was
fresh. -/
structure TracksMessage (acc : List Byte) (s : State) : Prop where
  absorbing : s.done = false → ∃ r, Fresh r ∧ s = absorbBytes r acc
  valid : s.done = true → digest s = md4 acc

theorem Fresh.tracksMessage {s : State} (h : Fresh s) : TracksMessage [] s :=
  ⟨fun _ => ⟨s, h, rfl⟩, fun hd => absurd (h.done.symm.trans hd) Bool.false_ne_true⟩

theorem messageOf_cons_init {w : BitVec 10} (h : cmdKind w = .init) (acc : List Byte) (ws : List (BitVec 10)) :
    messageOf acc (w :: ws) = messageOf [] ws := by
  simp [messageOf, h]

theorem messageOf_cons_finalize {w : BitVec 10} (h : cmdKind w = .finalize) (acc : List Byte)
    (ws : List (BitVec 10)) : messageOf acc (w :: ws) = messageOf acc ws := by
  simp [messageOf, h]

/-- The message after one word, then after the rest. -/
theorem messageOf_cons (acc : List Byte) (w : BitVec 10) (ws : List (BitVec 10)) :
    messageOf acc (w :: ws) = messageOf (messageOf acc [w]) ws := by
  cases h : cmdKind w <;> simp [messageOf, h]

/-- A command word that commits no misuse keeps the tracking. -/
theorem TracksMessage.commandNext {acc : List Byte} {s : State} (h : TracksMessage acc s) {w : BitVec 10}
    (hw : allowedWhen s.done (cmdKind w) = true) : TracksMessage (messageOf acc [w]) (commandNext w s) := by
  cases hk : cmdKind w with
  | nop =>
    rw [messageOf_cons_nop hk, commandNext_of_nop hk]
    exact h
  | init =>
    rw [messageOf_cons_init hk, commandNext_of_init hk]
    exact (fresh_contextReset s).tracksMessage
  | absorb =>
    have hdone : s.done = false := by simpa [allowedWhen, hk] using hw
    obtain ⟨r, hr, rfl⟩ := h.absorbing hdone
    rw [messageOf_cons_absorb hk, commandNext_of_absorb hk, ← absorbBytes_append_singleton]
    exact ⟨fun _ => ⟨r, hr, rfl⟩, fun hd => by simp [hr.done] at hd⟩
  | finalize =>
    have hdone : s.done = false := by simpa [allowedWhen, hk] using hw
    obtain ⟨r, hr, rfl⟩ := h.absorbing hdone
    rw [messageOf_cons_finalize hk, commandNext_of_finalize hk]
    exact ⟨fun hd => by simp at hd, fun _ => hr.digest_finalize acc⟩

theorem TracksMessage.runWords {acc : List Byte} {s : State} (h : TracksMessage acc s) {ws : List (BitVec 10)}
    (hws : noMisuse s.done ws = true) : ∃ t, runWords ws s = .next t ∧ TracksMessage (messageOf acc ws) t := by
  induction ws generalizing acc s with
  | nil => exact ⟨s, rfl, h⟩
  | cons w ws ih =>
    obtain ⟨hw, hws⟩ := Bool.and_eq_true_iff.1 hws
    rw [runWords_cons_next (exec_decodeCmd w s), messageOf_cons]
    exact ih (h.commandNext hw) (by rwa [commandNext_done])

/-- Settles O56: the tracking starts with the empty message in a fresh context, and the run keeps it. -/
theorem aValidDigestIsTheDigestOfTheMessage : Obligations.AValidDigestIsTheDigestOfTheMessage := by
  intro ws s hs hws
  obtain ⟨t, ht, htracks⟩ := hs.tracksMessage.runWords (by rwa [hs.done])
  exact ⟨t, ht, htracks.valid⟩

/-! ### How long the digest stands (R181, R222) -/

theorem runWords_nops {ws : List (BitVec 10)} (h : ∀ w ∈ ws, cmdKind w = .nop) (s : State) :
    runWords ws s = .next s := by
  induction ws with
  | nil => rfl
  | cons w ws ih =>
    obtain ⟨hw, hws⟩ := List.forall_mem_cons.1 h
    rw [runWords_cons_next (exec_decodeCmd w s), commandNext_of_nop hw, ih hws]

theorem resetAsserted_of_forall {s : State} (h : ∀ p ∈ s.inputs, p.reset = false) : resetAsserted s = false := by
  unfold resetAsserted
  cases hin : s.inputs with
  | nil => rfl
  | cons p rest => exact h p (by simp [hin])

/-- Settles O57: a NOP keeps the state, and an idle engine that is shown nothing else writes its port alone. -/
theorem theDigestStandsUntilTheNextCommand : Obligations.TheDigestStandsUntilTheNextCommand := by
  refine ⟨fun ws s h => runWords_nops h s, fun s t hidle hport h => ?_⟩
  have hkeeps : ∀ l, digest (s.setInputs l) = digest s ∧ digestValid (s.setInputs l) = digestValid s :=
    fun _ => ⟨rfl, rfl⟩
  cases stepNext_of_step h with
  | reset hr => cases hr.symm.trans (resetAsserted_of_forall fun p hp => (hport p hp).1)
  | idle hr hq hv => exact hkeeps _
  | @command _ p rest hr hq hin hv h =>
    have hnop : cmdKind p.cmd = .nop := ((hport p (by simp [hin])).2).resolve_left (by simp [hv])
    rw [exec_decodeCmd, commandNext_of_nop hnop] at h
    cases h
    exact hkeeps _
  | round hr hq hi h => cases hidle.symm.trans hq
  | addBack hr hq => cases hidle.symm.trans hq

end Sys2Proof.Machine
end

section
/-! PROOFS. The statements of 45_host_interface.md: what a step takes from the port (R191, R198), a run of the machine
over presented words as a fold over the accepted words (R191), DIGEST (R195, R196), and the
protocol's grammar (R197). -/

namespace Sys2Proof.Machine

/-! ### What a step runs (R191, R20) -/

theorem withFetchWord_command (s : State) (w : BitVec 10) : s.withFetchWord 16 w.toNat = loadCommand s w := by
  simp [State.withFetchWord]

theorem withFetchWord_step (s : State) (t : BitVec 6) : s.withFetchWord 8 t.toNat = loadStep s t := by
  simp [State.withFetchWord]

/-- A placed command is the next instruction, whatever the port showed before. -/
theorem step_loadCommand (s : State) (w : BitVec 10) :
    step (loadCommand s w) = exec (decodeCmd w) (s.setSeq .idle) :=
  step_presented (p := presentWord w) (rest := s.inputs) rfl rfl rfl rfl

theorem loadStep_of_released {s : State} (hr : resetAsserted s = false) (t : BitVec 6) :
    loadStep s t = s.setSeq (.round t) := by
  rw [loadStep, hr]
  rfl

/-- A reset at the port is put off behind an idle sample. -/
theorem loadStep_of_asserted {s : State} (hr : resetAsserted s = true) (t : BitVec 6) :
    loadStep s t = (s.setInputs (presentNothing :: s.inputs)).setSeq (.round t) := by
  rw [loadStep, hr]
  rfl

/-- Settles O41: the instruction is the one at the port, the one the sequencer selects, or the one placed in either. -/
theorem stepRunsTheDecodedInstruction : Obligations.StepRunsTheDecodedInstruction := by
  refine ⟨fun s p rest i hidle hin hr hv hi => ?_, fun s t i hseq hr hi => step_round hseq hr hi,
    fun s hseq hr => step_addBack hseq hr, fun s w => ?_, fun s t i hi => ?_⟩
  · cases hi
    exact step_presented hidle hin hr hv
  · rw [withFetchWord_command, step_loadCommand]
  · rw [withFetchWord_step]
    refine ⟨fun hr => ?_, fun hr => ?_⟩
    · rw [loadStep_of_released hr]
      exact step_round rfl hr hi
    · rw [loadStep_of_asserted hr]
      exact step_round rfl rfl hi

/-! ### What a step takes from the port (R191, R198) -/

/-- With nothing presented an idle engine moves on at the port alone. -/
theorem step_nothing_presented {s : State} (hidle : s.seq = .idle) (hr : resetAsserted s = false)
    (hv : ∀ p ∈ s.inputs.head?, p.cmdValid = false) : step s = .next (s.setInputs s.inputs.tail) := by
  cases hin : s.inputs with
  | nil =>
    have hself : s.setInputs [] = s := by rw [← hin, setInputs_inputs_self]
    simp [step, fetch, fetchNoReset, hr, hidle, hin, hself]
  | cons p rest => simp [step, fetch, fetchNoReset, hr, hidle, hin, hv p (by simp [hin])]

/-- No instruction writes the port. -/
theorem exec_inputs {i : Instr} {s t : State} (h : exec i s = .next t) : t.inputs = s.inputs := by
  cases execNext_of_exec h with
  | nop d => rfl
  | init d => exact contextReset_inputs s
  | absorb b => exact absorbByte_inputs s b
  | finalize d => simp
  | step w hi => exact setWork_inputs s w

@[simp] theorem addBack_inputs (s : State) : (addBack s).inputs = s.inputs := by simp [addBack]

/-- A busy engine with no reset asserted leaves the port alone: the word there waits. -/
theorem step_inputs_of_busy {s t : State} (hbusy : s.seq ≠ .idle) (hr : resetAsserted s = false)
    (h : step s = .next t) : t.inputs = s.inputs := by
  cases stepNext_of_step h with
  | reset hreset => cases hreset.symm.trans hr
  | idle _ hq _ => exact absurd hq hbusy
  | command _ hq _ _ _ => exact absurd hq hbusy
  | round _ _ _ hexec => exact (exec_inputs hexec).trans (setSeq_inputs s _)
  | addBack _ _ => exact addBack_inputs s

theorem cmdReady_iff {s : State} : cmdReady s = true ↔ s.seq = .idle ∧ resetAsserted s = false := by
  simp [cmdReady]

/-- Settles O42: an idle engine with nothing presented only uses up the sample, a busy one not even that. -/
theorem nothingIsAcceptedWhenIdleOrBusy : Obligations.NothingIsAcceptedWhenIdleOrBusy := by
  refine ⟨fun s hidle hin => ?_, fun s p rest hidle hin hr hv => ?_, fun s t hbusy hr h => ⟨?_, ?_⟩⟩
  · have hstep := step_nothing_presented hidle (resetAsserted_of_forall (by simp [hin])) (by simp [hin])
    rwa [show s.inputs.tail = s.inputs by rw [hin]; rfl, setInputs_inputs_self] at hstep
  · have hstep := step_nothing_presented hidle (by simpa [resetAsserted, hin] using hr) (by simpa [hin] using hv)
    rwa [hin] at hstep
  · exact Bool.eq_false_iff.2 fun hready => hbusy (cmdReady_iff.1 hready).1
  · exact step_inputs_of_busy hbusy hr h

/-! ### A command word neither reads the port nor leaves the engine busy (R191) -/

theorem runTransform_setInputs (s : State) (l : List PortSample) :
    runTransform (s.setInputs l) = (runTransform s).setInputs l := by
  have hblock : bufBlock (s.setInputs l) = bufBlock s := rfl
  rw [runTransform_eq, runTransform_eq, hblock, setInputs_cv]
  generalize TRANSFORM s.cv (bufBlock s) = v
  rfl

theorem absorbByte_setInputs (s : State) (l : List PortSample) (b : Byte) :
    absorbByte (s.setInputs l) b = (absorbByte s b).setInputs l := by
  by_cases h : s.len = 63#6
  · rw [absorbByte_of_eq h, absorbByte_of_eq (s := s.setInputs l) h]
    exact congrArg (State.setLen · 0#6)
      (runTransform_setInputs ((s.setTotal (s.total + 1#64)).setBuf (s.buf.write s.len.toNat b)) l)
  · rw [absorbByte_of_ne h, absorbByte_of_ne (s := s.setInputs l) h]
    rfl

theorem absorbBytes_setInputs (s : State) (l : List PortSample) (bs : List Byte) :
    absorbBytes (s.setInputs l) bs = (absorbBytes s bs).setInputs l :=
  List.foldl_hom (State.setInputs · l) fun s b => absorbByte_setInputs s l b

/-- A command word does the same whatever follows at the port. -/
theorem commandNext_setInputs (w : BitVec 10) (s : State) (l : List PortSample) :
    commandNext w (s.setInputs l) = (commandNext w s).setInputs l := by
  unfold commandNext
  cases cmdKind w with
  | nop => rfl
  | init => rfl
  | absorb => exact absorbByte_setInputs s l _
  | finalize =>
    simp only [setInputs_total, absorbBytes_setInputs]
    generalize absorbBytes s (paddingOf s.total) = u
    rfl

theorem absorbByte_seq_idle {s : State} (h : s.seq = .idle) (b : Byte) : (absorbByte s b).seq = .idle := by
  by_cases hl : s.len = 63#6
  · simp [absorbByte_of_eq hl]
  · simpa [absorbByte_of_ne hl] using h

theorem absorbBytes_seq_idle {s : State} (h : s.seq = .idle) (bs : List Byte) : (absorbBytes s bs).seq = .idle := by
  induction bs generalizing s with
  | nil => exact h
  | cons b bs ih => exact ih (absorbByte_seq_idle h b)

/-- A command word is atomic: the TRANSFORMs it runs are over when it completes. -/
theorem commandNext_seq_idle {s : State} (h : s.seq = .idle) (w : BitVec 10) : (commandNext w s).seq = .idle := by
  unfold commandNext
  cases cmdKind w with
  | nop => exact h
  | init => exact (contextReset_seq s).trans h
  | absorb => exact absorbByte_seq_idle h _
  | finalize => exact (markDone_seq _).trans (absorbBytes_seq_idle h _)

/-! ### A run of the machine is a fold over the accepted words (R191) -/

/-- An idle engine runs the word at the port in one step, and the rest of the stream stays there. -/
theorem step_setInputs_presentWord {s : State} (h : s.seq = .idle) (w : BitVec 10) (l : List PortSample) :
    step (s.setInputs (presentWord w :: l)) = .next ((commandNext w s).setInputs l) := by
  rw [← commandNext_setInputs, ← exec_decodeCmd]
  exact step_presented (p := presentWord w) h rfl rfl rfl

/-- Settles O45, by induction on the words: each is one step, and the engine is idle again after it. -/
theorem aWordStreamIsAFoldOfCommands : Obligations.AWordStreamIsAFoldOfCommands := by
  intro ws rest s h
  induction ws generalizing s with
  | nil => rfl
  | cons w ws ih =>
    rw [runWords_cons_next (exec_decodeCmd w _), commandNext_setInputs]
    exact (core_run_next (step_setInputs_presentWord h w _) ws.length).trans (ih _ (commandNext_seq_idle h w))

/-! ### DIGEST (R194 to R196) -/

theorem cmdReady_commandNext {s : State} (h : cmdReady s = true) (w : BitVec 10) :
    cmdReady (commandNext w s) = true := by
  obtain ⟨hidle, hr⟩ := cmdReady_iff.1 h
  have hin : (commandNext w s).inputs = s.inputs := exec_inputs (exec_decodeCmd w s)
  exact cmdReady_iff.2 ⟨commandNext_seq_idle hidle w, by rw [resetAsserted, hin]; exact hr⟩

/-- An engine that can accept a command word can do so again after any run of them. -/
theorem cmdReady_of_runWords {ws : List (BitVec 10)} {s t : State} (h : cmdReady s = true)
    (hrun : runWords ws s = .next t) : cmdReady t = true := by
  induction ws generalizing s with
  | nil => cases hrun; exact h
  | cons w ws ih =>
    rw [runWords_cons_next (exec_decodeCmd w s)] at hrun
    exact ih (cmdReady_commandNext h w) hrun

/-- Settles O58: the words of DIGEST leave the digest of the message, and the engine ready for it to be sampled. -/
theorem digestOperationIsTotal : Obligations.DigestOperationIsTotal := by
  refine ⟨fun m s hidle hr => ?_, fun s => rfl⟩
  obtain ⟨t, hrun, -, -, hdigest, hvalid⟩ := theEngineComputesMd4.1 m s
  have hready := cmdReady_of_runWords (cmdReady_iff.2 ⟨hidle, hr⟩) hrun
  exact ⟨t, by simp [digestOp, hrun, readDigest, hready, hdigest, hvalid], hvalid⟩

/-! ### The protocol's grammar (R197) -/

theorem allowedWhen_iff {d : Bool} {k : CmdKind} :
    allowedWhen d k = true ↔ (k = .absorb ∨ k = .finalize → d = false) := by
  cases k <;> simp [allowedWhen]

/-- Run on the engine from `s`, the stream meets no ABSORB and no FINALIZE while `done = 1`. -/
def MeetsNoMisuse (ws : List (BitVec 10)) (s : State) : Prop :=
  ∀ (p q : List (BitVec 10)) (w : BitVec 10) (u : State), ws = p ++ w :: q → runWords p s = .next u →
    cmdKind w = .absorb ∨ cmdKind w = .finalize → u.done = false

theorem meetsNoMisuse_nil (s : State) : MeetsNoMisuse [] s :=
  fun p q w _ hsplit => absurd hsplit.symm (List.append_ne_nil_of_right_ne_nil p (List.cons_ne_nil w q))

/-- The first word meets the engine as it is, every later one the engine after the first word. -/
theorem meetsNoMisuse_cons {v : BitVec 10} {vs : List (BitVec 10)} {s : State} :
    MeetsNoMisuse (v :: vs) s ↔ allowedWhen s.done (cmdKind v) = true ∧ MeetsNoMisuse vs (commandNext v s) := by
  rw [allowedWhen_iff]
  constructor
  · refine fun h => ⟨h [] vs v s rfl rfl, fun p q w u hsplit hrun => h (v :: p) q w u (by rw [hsplit]; rfl) ?_⟩
    rwa [runWords_cons_next (exec_decodeCmd v s)]
  · rintro ⟨hfirst, hrest⟩ p q w u hsplit hrun
    cases p with
    | nil => cases hsplit; cases hrun; exact hfirst
    | cons x p =>
      cases hsplit
      rw [runWords_cons_next (exec_decodeCmd v s)] at hrun
      exact hrest p q w u rfl hrun

/-- The premise `noMisuse` follows `done` as the engine does. -/
theorem noMisuse_iff_meetsNoMisuse (ws : List (BitVec 10)) (s : State) :
    noMisuse s.done ws = true ↔ MeetsNoMisuse ws s := by
  induction ws generalizing s with
  | nil => exact iff_of_true rfl (meetsNoMisuse_nil s)
  | cons v vs ih => rw [meetsNoMisuse_cons, ← ih, commandNext_done, noMisuse, Bool.and_eq_true]

/-- Words that are allowed and leave `done` as it is drop out of the check. -/
theorem noMisuse_append_of_forall {d : Bool} {xs : List (BitVec 10)}
    (h : ∀ w ∈ xs, allowedWhen d (cmdKind w) = true ∧ doneAfter d (cmdKind w) = d) (ys : List (BitVec 10)) :
    noMisuse d (xs ++ ys) = noMisuse d ys := by
  induction xs with
  | nil => rfl
  | cons x xs ih =>
    obtain ⟨⟨hallowed, hdone⟩, hxs⟩ := List.forall_mem_cons.1 h
    rw [List.cons_append, noMisuse, hallowed, hdone, ih hxs, Bool.true_and]

/-- A body is allowed while `done = 0`, and its FINALIZE leaves `done = 1`. -/
theorem IsBody.noMisuse_append {ws : List (BitVec 10)} (h : IsBody ws) (ys : List (BitVec 10)) :
    noMisuse false (ws ++ ys) = noMisuse true ys := by
  obtain ⟨body, f, tail, rfl, hbody, hf, htail⟩ := h
  have hkeeps : ∀ w ∈ body, allowedWhen false (cmdKind w) = true ∧ doneAfter false (cmdKind w) = false := by
    intro w hw
    obtain hk | hk := hbody w hw <;> rw [hk] <;> exact ⟨rfl, rfl⟩
  have hnops : ∀ w ∈ tail, allowedWhen true (cmdKind w) = true ∧ doneAfter true (cmdKind w) = true := by
    intro w hw
    rw [htail w hw]
    exact ⟨rfl, rfl⟩
  calc noMisuse false ((body ++ f :: tail) ++ ys)
    _ = noMisuse false (f :: (tail ++ ys)) := by
      rw [List.append_assoc, noMisuse_append_of_forall hkeeps, List.cons_append]
    _ = noMisuse true (tail ++ ys) := by rw [noMisuse, hf]; rfl
    _ = noMisuse true ys := noMisuse_append_of_forall hnops ys

/-- A computation is allowed whatever `done` is: its INIT clears the flag. -/
theorem IsComputation.noMisuse_append {ws : List (BitVec 10)} (h : IsComputation ws) (d : Bool)
    (ys : List (BitVec 10)) : noMisuse d (ws ++ ys) = noMisuse true ys := by
  obtain ⟨i, body, rfl, hi, hbody⟩ := h
  rw [List.cons_append, noMisuse, hi]
  exact hbody.noMisuse_append ys

theorem noMisuse_flatten {cs : List (List (BitVec 10))} (h : ∀ c ∈ cs, IsComputation c) (d : Bool) :
    noMisuse d cs.flatten = true := by
  induction cs generalizing d with
  | nil => rfl
  | cons c cs ih =>
    obtain ⟨hc, hcs⟩ := List.forall_mem_cons.1 h
    rw [List.flatten_cons, hc.noMisuse_append, ih hcs]

theorem IsStream.noMisuse {ws : List (BitVec 10)} (h : IsStream ws) : noMisuse false ws = true := by
  obtain ⟨first, cs, rfl, hfirst, hcs⟩ := h
  obtain rfl | hbody := hfirst
  · exact noMisuse_flatten hcs false
  · rw [hbody.noMisuse_append, noMisuse_flatten hcs]

/-- Settles O59: `noMisuse` is the engine's own check, and every part of the grammar passes it. -/
theorem grammarStreamsCommitNoMisuse : Obligations.GrammarStreamsCommitNoMisuse := by
  refine ⟨fun p q w s u hstream hdone => ?_, noMisuse_iff_meetsNoMisuse, fun _ => IsStream.noMisuse⟩
  exact (noMisuse_iff_meetsNoMisuse _ s).1 (by rw [hdone]; exact hstream.noMisuse) p q w u rfl

end Sys2Proof.Machine
end

section
/-! PROOFS. The statements of 60_exceptions.md: reset wins over everything at the port and in the sequencer (R203, R216,
R217), and nothing the engine runs ends in a fault or a refusal (R200). -/

namespace Sys2Proof.Machine

/-! ### Reset wins over everything (R203, R216, R217) -/

/-- With reset asserted a step is the hardware reset, whatever the sequencer holds and the command lines show; it uses up
the sample. -/
theorem step_resetAsserted {s : State} (hr : resetAsserted s = true) :
    step s = .next (hardwareReset (s.setInputs s.inputs.tail)) := by
  simp [step, fetch, hr]

theorem step_presentReset {s : State} {v : Bool} {w : BitVec 10} {rest : List PortSample}
    (hin : s.inputs = presentReset v w :: rest) : step s = .next (hardwareReset (s.setInputs rest)) := by
  have hr : resetAsserted s = true := by rw [resetAsserted, hin]; rfl
  have hstep := step_resetAsserted hr
  rwa [hin] at hstep

/-- Settles O43: the step is the hardware reset, which leaves a fresh context with the sequencer idle, so that only a
further reset at the port keeps the engine from being ready. -/
theorem resetWinsOverEverything : Obligations.ResetWinsOverEverything := by
  intro s v w rest hin
  have hseq := hardwareReset_seq (s.setInputs rest)
  obtain ⟨hcv, htotal, hlen, hdone⟩ := fresh_hardwareReset (s.setInputs rest)
  exact ⟨_, step_presentReset hin, hcv, htotal, hlen, hdone, hseq, by simp, congrArg chainBytes hcv, hdone,
    fun hr => cmdReady_iff.2 ⟨hseq, hr⟩⟩

/-! ### The engine raises nothing (R200) -/

/-- An idle engine runs the word at the port, or lets a moment with nothing presented pass. -/
theorem stepsOn_of_idle {s : State} (hidle : s.seq = .idle) (hr : resetAsserted s = false) : StepsOn s := by
  by_cases hv : ∀ p ∈ s.inputs.head?, p.cmdValid = false
  · exact ⟨_, step_nothing_presented hidle hr hv⟩
  · obtain ⟨p, hp, hvalid⟩ : ∃ p ∈ s.inputs.head?, p.cmdValid = true := by simpa using hv
    obtain ⟨rest, hin⟩ := List.head?_eq_some_iff.1 hp
    have hpr : p.reset = false := by simpa [resetAsserted, hin] using hr
    obtain ⟨t, ht⟩ := exec_next (decodeCmd p.cmd) (s.setInputs rest)
    exact ⟨t, (step_presented hidle hin hpr hvalid).trans ht⟩

/-- Inside a TRANSFORM a legal index selects a step, and every step completes. -/
theorem stepsOn_of_round {s : State} {k : BitVec 6} (hseq : s.seq = .round k) (hk : k.toNat < 48)
    (hr : resetAsserted s = false) : StepsOn s := by
  obtain ⟨i, hdecode, -⟩ := decodeStep_of_lt hk
  obtain ⟨t, ht⟩ := exec_next i (s.setSeq (nextSeq k))
  exact ⟨t, (step_round hseq hr hdecode).trans ht⟩

theorem stepsOn_of_legal {s : State} (hlegal : s.seq.legal) : StepsOn s := by
  cases hr : resetAsserted s with
  | true => exact ⟨_, step_resetAsserted hr⟩
  | false =>
    cases hseq : s.seq with
    | idle => exact stepsOn_of_idle hseq hr
    | round k => exact stepsOn_of_round hseq (by rwa [hseq] at hlegal) hr
    | addBack => exact ⟨_, step_addBack hseq hr⟩

/-- A run of command words goes to its end, each word with the state the one before it left. -/
theorem runWords_eq_foldl (ws : List (BitVec 10)) (s : State) :
    runWords ws s = .next (ws.foldl (fun s w => commandNext w s) s) := by
  induction ws generalizing s with
  | nil => rfl
  | cons w ws ih => exact (runWords_cons_next (exec_decodeCmd w s) ws).trans (ih _)

/-- Settles O46: an instruction, a step from a legal sequencer and a run of words each answer a next state. -/
theorem theEngineRaisesNothing : Obligations.TheEngineRaisesNothing :=
  ⟨exec_next, fun _ => stepsOn_of_legal, fun ws s => ⟨_, runWords_eq_foldl ws s⟩⟩

end Sys2Proof.Machine
end

section
/-! PROOFS. The statement of 70_reset_and_hazards.md about the amount of work (R226): a message costs as many TRANSFORMs
as its padded form has blocks. -/

namespace Sys2Proof.Machine

/-- The pad and the suffix end in the block where the message ends or in the next. -/
theorem length_paddedMessage_div (m : List Byte) : (paddedMessage m).length / 64 = (m.length + 8) / 64 + 1 := by
  have hpad := add_padLen (Nat.mod_lt m.length (by decide : 0 < 64))
  rw [length_paddedMessage]
  omega

/-- From a fresh context the message and its padding run one TRANSFORM for each block of the padded message. -/
theorem Fresh.epoch_finalize {s : State} (h : Fresh s) (m : List Byte) :
    (markDone (absorbBytes (absorbBytes s m) (paddingOf (absorbBytes s m).total))).epoch =
      s.epoch + (paddedMessage m).length / 64 := by
  have htotal : (absorbBytes s m).total = BitVec.ofNat 64 m.length := by simp [absorbBytes_total, h.total]
  obtain ⟨-, -, hepoch⟩ := h.pending_nil.absorbBytes (paddedMessage m)
  rw [List.nil_append] at hepoch
  rw [markDone_epoch, ← absorbBytes_append, append_paddingOf htotal, hepoch]

/-- Settles O60: INIT leaves a fresh context and runs no TRANSFORM; the rest is the number of padded blocks. -/
theorem transformsPerMessage : Obligations.TransformsPerMessage := by
  intro m s t hrun
  rw [runWords_digestWords] at hrun
  cases hrun
  rw [(fresh_contextReset s).epoch_finalize m, contextReset_epoch, length_paddedMessage_div, Nat.add_assoc]

end Sys2Proof.Machine
end
